-- ==== Sys2Proof/Word.lean ====
section
/-! DEFINITION. The word types of the CHIP-8 core and the widenings between them (00_scope.md R8, R9: every value is
unsigned, nothing is sign-extended). -/

namespace Sys2Proof

/-- A general register, a memory byte, a timer (10_state.md R30, R38, R39). -/
abbrev Byte := BitVec 8

/-- A 16-bit quantity: PC, I, a stack slot, an instruction word (10_state.md R33, R34, R36; 30_encoding.md R100). -/
abbrev Word := BitVec 16

/-- The index of one of V0..VF, the 4-bit fields X and Y of a word (30_encoding.md R101). -/
abbrev RegIx := BitVec 4

/-- The field N of a word: a count 0..15 (30_encoding.md R101). -/
abbrev Nibble := BitVec 4

/-- The field NNN of a word: a 12-bit address (30_encoding.md R101). -/
abbrev Addr12 := BitVec 12

/-- `zext_16` of 00_scope.md R9: a byte widened to 16 bits with zero high bits. -/
def zext16 (b : Byte) : Word := b.setWidth 16

end Sys2Proof
end

