-- ==== Sys2Proof/Config.lean ====
section
/-! DEFINITION. What the hardware fixes (00_scope.md R7) and what the spec leaves free: the inputs the driver supplies
for each step (92_eei_decisions.md, named parameters left open to the model). -/

namespace Sys2Proof

/-- Where the font glyphs begin, `FONT_BASE` (00_scope.md R7; 20_memory.md R78). -/
@[simp] abbrev Config.fontBase : Nat := 0x050

/-- Where the program region begins, `PROG_BASE` (00_scope.md R7; 20_memory.md R78). -/
@[simp] abbrev Config.progBase : Nat := 0x200

/-- The longest program the loader takes, `4096 - 0x200` bytes (70_reset_and_hazards.md R295; 90_conflicts.md C1). -/
@[simp] abbrev Config.maxProgram : Nat := 3584

/-- The PC after machine initialization, `RESET_PC` (10_state.md R47; D3, 90_conflicts.md C2). -/
@[simp] abbrev Config.resetPc : Word := 0x200#16

/-- The display's width in pixels (00_scope.md R7). -/
@[simp] abbrev Config.width : Nat := 64

/-- The display's height in pixels (00_scope.md R7). -/
@[simp] abbrev Config.height : Nat := 32

/-- The width of a sprite row in pixels (00_scope.md R7). -/
@[simp] abbrev Config.spriteWidth : Nat := 8

/-- The depth of the call stack in return addresses (00_scope.md R7; 10_state.md R36). -/
@[simp] abbrev Config.stackDepth : Nat := 16

/-- The flag register VF, register 0xF (10_state.md R31). -/
@[simp] abbrev Config.vf : RegIx := 0xF#4

/-- The default of the parameter `FONT`: the table of 20_memory.md R78, one glyph of five rows a line.
PRESUMED (log entry 11): the spec marks the table as general knowledge. `State.loadFonts` takes any table. -/
def Config.defaultFont : Vector Byte 80 :=
  #v[0xF0, 0x90, 0x90, 0x90, 0xF0,
     0x20, 0x60, 0x20, 0x20, 0x70,
     0xF0, 0x10, 0xF0, 0x80, 0xF0,
     0xF0, 0x10, 0xF0, 0x10, 0xF0,
     0x90, 0x90, 0xF0, 0x10, 0x10,
     0xF0, 0x80, 0xF0, 0x10, 0xF0,
     0xF0, 0x80, 0xF0, 0x90, 0xF0,
     0xF0, 0x10, 0x20, 0x40, 0x40,
     0xF0, 0x90, 0xF0, 0x90, 0xF0,
     0xF0, 0x90, 0xF0, 0x10, 0xF0,
     0xF0, 0x90, 0xF0, 0x90, 0x90,
     0xE0, 0x90, 0xE0, 0x90, 0xE0,
     0xF0, 0x80, 0x80, 0x80, 0xF0,
     0xE0, 0x90, 0x90, 0x90, 0xE0,
     0xF0, 0x80, 0xF0, 0x80, 0xF0,
     0xF0, 0x80, 0xF0, 0x80, 0x80]

/-- A FREE VALUE (log entry 2): the key snapshot the driver supplies for the step numbered n; any snapshot
(10_state.md R41; D32). -/
opaque Config.freeKeys : Nat → Vector Bool 16

/-- A FREE VALUE (log entry 2): the random byte on the `rand` port in the step numbered n; any byte, under no law
(45_timers_keys_random.md R240; D24). -/
opaque Config.freeRand : Nat → Byte

/-- A FREE VALUE (log entry 2): how many timer ticks the driver issues before the step numbered n; any number
(45_timers_keys_random.md R251; D23). -/
opaque Config.freeTicks : Nat → Nat

end Sys2Proof
end

