-- ==== Sys2Proof/Machine/State.lean ====
section
/-! DEFINITION. The machine's state as one record of plain data (10_state.md), the host's two reason types, and the state
after machine initialization (10_state.md R47; 70_reset_and_hazards.md R290). -/

namespace Sys2Proof.Machine

/-- Memory as (address, byte) pairs, addresses strictly rising, no pair equal to what an unlisted address reads as
(20_memory.md R70). `Memory.wf` in Machine/Ops.lean says so. -/
abbrev Memory := List Host.Cell

/-- The display grid, row-major: 32 rows of 64 one-bit pixels (10_state.md R40). -/
abbrev Display := Vector (Vector Bool 64) 32

/-- A fault with the record it leaves (60_exceptions.md R260, R262; 10_state.md R45): `pc` is the address of the
instruction or fetch that faulted, `word` the fetched word. -/
inductive FaultInfo where
  /-- An address above 0xFFF; `addr` is the lowest failing one; a fetch fault has no word (20_memory.md R73). -/
  | memoryAccessViolation (pc : Word) (word : Option Word) (addr : Nat)
  /-- A call with 16 entries on the stack (10_state.md R37). -/
  | stackOverflow (pc word : Word)
  /-- A return with none (10_state.md R37). -/
  | stackUnderflow (pc word : Word)
  /-- A word that matches no instruction (30_encoding.md R106). -/
  | invalidOpcode (pc word : Word)
  /-- A key test with V[X] above 0x0F, which is `value` (45_timers_keys_random.md R248). -/
  | keyIndexOutOfRange (pc word : Word) (value : Byte)
  deriving DecidableEq, Repr

/-- The core status (10_state.md R45); it holds the key-wait flag (R44). -/
inductive Status where
  /-- The next step fetches and executes. -/
  | running
  /-- The next step polls the keys for register `r`. -/
  | awaitingKey (r : RegIx)
  /-- A fault ended execution; no further step has an effect. -/
  | faulted (info : FaultInfo)
  deriving DecidableEq, Repr

/-- The whole machine (10_state.md). The fields from `keys` on are the model's own: what the driver supplies for the
coming step (00_scope.md R5), which the spec calls inputs and not state (10_state.md R41, R42); log entries 1 to 4. -/
structure State where
  /-- V0..VF (R30). -/
  v : Vector Byte 16
  /-- The index register I (R33). -/
  i : Word
  /-- The address of the next instruction to fetch (R34). -/
  pc : Word
  /-- The entries of the stack in use, 0..16 (R36). -/
  sp : Fin 17
  /-- `Stack[0..15]` (R36). -/
  stack : Vector Word 16
  /-- The delay timer (R38). -/
  dt : Byte
  /-- The sound timer (R38). -/
  st : Byte
  /-- The 4096 bytes of memory (R39). -/
  mem : Memory
  /-- The 64 × 32 pixels (R40). -/
  display : Display
  /-- The core status (R45). -/
  status : Status
  /-- The key snapshot of the coming step: entry k is true when hex key k is pressed. DESIGN CHOICE, log entry 1. -/
  keys : Vector Bool 16
  /-- The random byte of the coming step. DESIGN CHOICE, log entry 1. -/
  rand : Byte
  /-- The timer ticks the driver issues before the coming step. DESIGN CHOICE, log entry 1. -/
  ticks : Nat
  /-- How many steps' inputs have been drawn from Config's free values. DESIGN CHOICE, log entry 2. -/
  draws : Nat
  deriving DecidableEq, Repr

/-- Why the model would stop with a fault: no reason exists, so no step can answer one. Every fault of this hardware is
a next state with status `Faulted` (60_exceptions.md R264; log entry 5), which is exact and neither safe nor unsafe. -/
inductive Fault where
  deriving DecidableEq, Repr

/-- Why the model refuses an instruction. -/
inductive Refusal where
  /-- The instruction of that mnemonic has no meaning yet: raised by exec's own arm alone, safe. No arm does so now. -/
  | notModelled (mnemonic : String)
  deriving DecidableEq, Repr

/-- Machine initialization (10_state.md R47): everything zero, off and empty, PC = 0x200, status `Running`. The first
step's keys and random byte are free values like every later step's, drawn as number 0 (70_reset_and_hazards.md R302); no
tick is pending, which loses none, since both timers are zero (DESIGN CHOICE, log entry 3). -/
def State.reset : State where
  v := Vector.replicate 16 0x00#8
  i := 0x0000#16
  pc := Config.resetPc
  sp := 0
  stack := Vector.replicate 16 0x0000#16
  dt := 0x00#8
  st := 0x00#8
  mem := []
  display := Vector.replicate 32 (Vector.replicate 64 false)
  status := .running
  keys := Config.freeKeys 0
  rand := Config.freeRand 0
  ticks := 0
  draws := 1

end Sys2Proof.Machine
end

