-- ==== Sys2Proof/Machine/Ops.lean ====
section
/-! DEFINITION. The named operations over the machine's state: memory, registers, stack, display, timers, keys, fault entry,
the boot sequence, and the driver's inputs around a step. Each is said once and used by every meaning. -/

namespace Sys2Proof.Machine

/-! ### Memory (20_memory.md) -/

/-- What an address that memory does not list reads as: its value after machine initialization (10_state.md R47). -/
@[simp] abbrev Memory.unlisted : Byte := 0x00#8

/-- Memory is in its canonical form: every listed address exists, no listed byte is the unlisted value, addresses
rise strictly. -/
abbrev Memory.wf (m : Memory) : Prop :=
  (∀ c ∈ m, c.1 ≤ 0xFFF ∧ c.2 ≠ Memory.unlisted) ∧ m.Pairwise (fun c d => c.1 < d.1)

/-- The byte at an address, `MemRead(a, 1)` (20_memory.md R74). The bound of R73 is checked by the caller: see
`firstOutside`. -/
def Memory.read : Memory → Nat → Byte
  | [], _ => Memory.unlisted
  | (k, b) :: m, a => if k = a then b else Memory.read m a

/-- Store a byte at an address, `MemWrite(a, 1, b)` (20_memory.md R74), keeping the canonical form. The bound of R73 is
checked by the caller: see `firstOutside`. -/
def Memory.write : Memory → Nat → Byte → Memory
  | [], a, b => if b = Memory.unlisted then [] else [(a, b)]
  | (k, c) :: m, a, b =>
    if a < k then (if b = Memory.unlisted then (k, c) :: m else (a, b) :: (k, c) :: m)
    else if a = k then (if b = Memory.unlisted then m else (a, b) :: m)
    else (k, c) :: Memory.write m a b

/-- Store a list of bytes at rising addresses from `a` on (20_memory.md R74). -/
def Memory.writeList : Memory → Nat → List Byte → Memory
  | m, _, [] => m
  | m, a, b :: bs => Memory.writeList (m.write a b) (a + 1) bs

/-- The lowest of the `n` addresses from `base` on that lies outside memory, if one does. Addresses are unbounded
naturals (20_memory.md R73, R76). -/
def firstOutside (base n : Nat) : Option Nat :=
  ((List.range n).map (base + ·)).find? (fun a => decide (0xFFF < a))

def State.memRead (s : State) (a : Nat) : Byte := s.mem.read a

def State.memWrite (s : State) (a : Nat) (b : Byte) : State := { s with mem := s.mem.write a b }

/-! ### Registers (10_state.md R30 to R35) -/

/-- `V[x]` (00_scope.md R10). -/
def State.getV (s : State) (x : RegIx) : Byte := s.v[x.toNat]'(x.isLt)

/-- `V[x] <- b` (00_scope.md R10). -/
def State.setV (s : State) (x : RegIx) (b : Byte) : State := { s with v := s.v.set x.toNat b x.isLt }

/-- `V[0xF]`, the flag (10_state.md R31). -/
def State.getVF (s : State) : Byte := s.getV Config.vf

/-- `V[0xF] <- b`, the flag (10_state.md R31). -/
def State.setVF (s : State) (b : Byte) : State := s.setV Config.vf b

def State.setI (s : State) (w : Word) : State := { s with i := w }

def State.setPc (s : State) (w : Word) : State := { s with pc := w }

def State.setDt (s : State) (b : Byte) : State := { s with dt := b }

def State.setSt (s : State) (b : Byte) : State := { s with st := b }

def State.setStatus (s : State) (x : Status) : State := { s with status := x }

/-- The fetch's PC increment, `PC <- (A + 2) mod 2^16`, made before the instruction executes
(40_fetch_and_step.md R131, R132). -/
def State.advance (s : State) : State := s.setPc (s.pc + 2#16)

/-- `Skip()`: one more instruction word, whatever it holds (40_fetch_and_step.md R137). -/
def State.skip (s : State) : State := s.setPc (s.pc + 2#16)

/-- `if c: Skip()`. -/
def State.skipIf (s : State) (c : Bool) : State := if c then s.skip else s

/-! ### The call stack (10_state.md R36, R37) -/

/-- `Push(w)`; none where it raises `StackOverflow`. -/
def State.push (s : State) (w : Word) : Option State :=
  if h : s.sp.val < Config.stackDepth then
    some { s with stack := s.stack.set s.sp.val w h, sp := ⟨s.sp.val + 1, Nat.succ_lt_succ h⟩ }
  else none

/-- `Pop()`, the popped address and the state after it; none where it raises `StackUnderflow`. The slot keeps its
value. -/
def State.pop (s : State) : Option (Word × State) :=
  if h : 0 < s.sp.val then
    some (s.stack[s.sp.val - 1]'(by have := s.sp.isLt; omega),
      { s with sp := ⟨s.sp.val - 1, by have := s.sp.isLt; omega⟩ })
  else none

/-! ### The display (10_state.md R40) -/

/-- `Pix(x, y)`, column x and row y; off outside the grid, where no instruction reads (log entry 13). -/
def State.pix (s : State) (x y : Nat) : Bool :=
  if h : x < Config.width ∧ y < Config.height then (s.display[y]'h.2)[x]'h.1 else false

/-- `Pix(x, y) <- b`; nothing outside the grid, where no instruction writes (log entry 13). -/
def State.setPix (s : State) (x y : Nat) (b : Bool) : State :=
  if h : x < Config.width ∧ y < Config.height then
    { s with display := s.display.set y ((s.display[y]'h.2).set x b h.1) h.2 }
  else s

/-- Every pixel off (44_display.md R220). -/
def State.clearDisplay (s : State) : State :=
  { s with display := Vector.replicate 32 (Vector.replicate 64 false) }

/-! ### Taking a fault (60_exceptions.md R264) -/

/-- The fault's `pc` field (60_exceptions.md R262). -/
def FaultInfo.pc : FaultInfo → Word
  | .memoryAccessViolation pc _ _ => pc
  | .stackOverflow pc _ => pc
  | .stackUnderflow pc _ => pc
  | .invalidOpcode pc _ => pc
  | .keyIndexOutOfRange pc _ _ => pc

/-- The fault's `word` field, absent for a fetch fault (60_exceptions.md R260). -/
def FaultInfo.word : FaultInfo → Option Word
  | .memoryAccessViolation _ w _ => w
  | .stackOverflow _ w => some w
  | .stackUnderflow _ w => some w
  | .invalidOpcode _ w => some w
  | .keyIndexOutOfRange _ w _ => some w

/-- The fault's code (60_exceptions.md R260, D37). -/
def FaultInfo.code : FaultInfo → Nat
  | .memoryAccessViolation _ _ _ => 1
  | .stackOverflow _ _ => 2
  | .stackUnderflow _ _ => 3
  | .invalidOpcode _ _ => 4
  | .keyIndexOutOfRange _ _ _ => 5

/-- `raise F(info)`, from the state BEFORE the step, with PC = A: nothing changes but the status, so the fault is precise
(60_exceptions.md R264; 40_fetch_and_step.md R135). There is no handler to go to and no return (R265). -/
def raise (f : FaultInfo) (s : State) : Host.Outcome State Fault Refusal := .next (s.setStatus (.faulted f))

/-- The bounds check of a block instruction, all of it before any effect (20_memory.md R76): `done` is the state after
the instruction when the `n` addresses from I on exist, and `w` the instruction's word. -/
def checkedBlock (s : State) (w : Word) (n : Nat) (done : State) : Host.Outcome State Fault Refusal :=
  match firstOutside s.i.toNat n with
  | some a => raise (.memoryAccessViolation s.pc (some w) a) s
  | none => .next done

/-! ### Instruction fetch (40_fetch_and_step.md R131, R133; 20_memory.md R72) -/

/-- `MemRead16(a)`, the byte of the lower address high (20_memory.md R72). -/
def State.memRead16 (s : State) (a : Nat) : Word := s.memRead a ++ s.memRead (a + 1)

/-- The word at PC, or the fault of a fetch whose bytes are not both inside memory. -/
def State.fetch (s : State) : Except FaultInfo Word :=
  match firstOutside s.pc.toNat 2 with
  | some a => .error (.memoryAccessViolation s.pc none a)
  | none => .ok (s.memRead16 s.pc.toNat)

/-! ### Timers and keys (45_timers_keys_random.md) -/

/-- A timer's decrement, never below zero (45_timers_keys_random.md R250). -/
def decrement (b : Byte) : Byte := if b = 0#8 then 0#8 else b - 1#8

/-- `Tick()` (45_timers_keys_random.md R250), taken in every status (R251). -/
def State.tick (s : State) : State := { s with dt := decrement s.dt, st := decrement s.st }

/-- `n` ticks, one after another. -/
def State.tickMany : Nat → State → State
  | 0, s => s
  | n + 1, s => (State.tickMany n s).tick

/-- `Key(k)` of the current step's snapshot (10_state.md R41). -/
def State.key (s : State) (k : RegIx) : Bool := s.keys[k.toNat]'(k.isLt)

/-- The least pressed key, "lowest index wins" (45_timers_keys_random.md R246). -/
def State.lowestKey (s : State) : Option RegIx := ((List.range 16).map (BitVec.ofNat 4)).find? s.key

/-- `KeyWaitPoll(r)`, the whole of a step in status `AwaitingKey(r)` (45_timers_keys_random.md R246). -/
def State.keyWaitPoll (r : RegIx) (s : State) : State :=
  match s.lowestKey with
  | some k => (s.setV r (k.setWidth 8)).setStatus .running
  | none => s

/-! ### The boot sequence (70_reset_and_hazards.md R293 to R296) -/

/-- `load_fonts()` for a font table of 80 bytes (70_reset_and_hazards.md R294). -/
def State.loadFonts (font : Vector Byte 80) (s : State) : State :=
  { s with mem := s.mem.writeList Config.fontBase font.toList }

/-- The loader's own failure, no fault of the core (60_exceptions.md R260, R266). -/
inductive LoadError where
  /-- The program is longer than 3584 bytes; the length is recorded. -/
  | romTooLarge (length : Nat)
  deriving DecidableEq, Repr

/-- `load_program(bytes)` (70_reset_and_hazards.md R295; 90_conflicts.md C1). -/
def State.loadProgram (bytes : List Byte) (s : State) : Except LoadError State :=
  if Config.maxProgram < bytes.length then .error (.romTooLarge bytes.length)
  else .ok { s with mem := s.mem.writeList Config.progBase bytes }

/-- The boot sequence (70_reset_and_hazards.md R293): initialization, fonts, program. -/
def State.boot (font : Vector Byte 80) (bytes : List Byte) : Except LoadError State :=
  (State.reset.loadFonts font).loadProgram bytes

/-! ### The driver's inputs around a step (log entries 1, 2, 4) -/

/-- The ticks the driver issued since the previous step, taken before this one (45_timers_keys_random.md R251). -/
def State.takeTicks (s : State) : State := { State.tickMany s.ticks s with ticks := 0 }

/-- What the driver supplies for the next step: free values, drawn afresh (10_state.md R41, R42; R251). -/
def State.drawInputs (s : State) : State :=
  { s with
    keys := Config.freeKeys s.draws
    rand := Config.freeRand s.draws
    ticks := Config.freeTicks s.draws
    draws := s.draws + 1 }

/-- The end of a step: a next state gets the next step's inputs. -/
def endStep : Host.Outcome State Fault Refusal → Host.Outcome State Fault Refusal
  | .next s => .next s.drawInputs
  | .fault r => .fault r
  | .refused r => .refused r

end Sys2Proof.Machine
end

