-- ==== Sys2Proof/Machine/Operands.lean ====
section
/-! DEFINITION. The operand forms: immediates (30_encoding.md R103), the index-relative address (43_index_memory.md R206),
sprite coordinates (44_display.md R222), glyph addresses (20_memory.md R78), and the register blocks of FX55 and FX65. -/

namespace Sys2Proof.Machine

/-- `NNN` as an address, `zext_16(NNN)` (30_encoding.md R103). -/
def addrOperand (nnn : Addr12) : Word := nnn.setWidth 16

/-- The effective address of the k-th byte of a block, I + k, an unbounded natural (43_index_memory.md R206). -/
def State.blockAddr (s : State) (k : Nat) : Nat := s.i.toNat + k

/-- The sprite's origin column, V[x] mod 64 (44_display.md R221, R222). -/
def State.originX (s : State) (x : RegIx) : Nat := (s.getV x).toNat % Config.width

/-- The sprite's origin row, V[y] mod 32 (44_display.md R221, R222). -/
def State.originY (s : State) (y : RegIx) : Nat := (s.getV y).toNat % Config.height

/-- The key a test names, V[x] itself; none above 0x0F (45_timers_keys_random.md R248). -/
def State.keyOperand (s : State) (x : RegIx) : Option RegIx :=
  if (s.getV x).toNat ≤ 0x0F then some ((s.getV x).setWidth 4) else none

/-- The address of a value's glyph: FONT_BASE + 5 × its low nibble (43_index_memory.md R202). -/
def glyphAddr (b : Byte) : Word := BitVec.ofNat 16 (Config.fontBase + 5 * (b &&& 0x0F#8).toNat)

/-- The three decimal digits of a byte, hundreds first (43_index_memory.md R203). -/
def decimalDigits (b : Byte) : List Byte :=
  [BitVec.ofNat 8 (b.toNat / 100), BitVec.ofNat 8 (b.toNat / 10 % 10), BitVec.ofNat 8 (b.toNat % 10)]

/-- How many registers V0..VX are: the bound is inclusive (43_index_memory.md R204). -/
def blockLength (x : RegIx) : Nat := x.toNat + 1

/-- Store the first `n` registers at I, I+1, …, in rising order (43_index_memory.md R204). -/
def State.storeRegs : Nat → State → State
  | 0, s => s
  | k + 1, s => (State.storeRegs k s).memWrite (s.blockAddr k) (s.getV (BitVec.ofNat 4 k))

/-- Load the first `n` registers from I, I+1, …, in rising order (43_index_memory.md R205). -/
def State.loadRegs : Nat → State → State
  | 0, s => s
  | k + 1, s => (State.loadRegs k s).setV (BitVec.ofNat 4 k) (s.memRead (s.blockAddr k))

end Sys2Proof.Machine
end

