-- ==== Sys2Proof/Machine/Flags.lean ====
section
/-! DEFINITION. Every flag computation: the values VF takes (42_alu.md R171; 44_display.md R223), and the order in which result
and flag are written (42_alu.md R172). -/

namespace Sys2Proof.Machine

/-- A flag as a byte: 1 or 0. -/
def flagByte (b : Bool) : Byte := if b then 0x01#8 else 0x00#8

/-- The carry out of bit 7: 1 if a + b ≥ 256 (42_alu.md R181). -/
def carryFlag (a b : Byte) : Byte := flagByte (decide (256 ≤ a.toNat + b.toNat))

/-- The bit a right shift drops: bit 0 of the old value (42_alu.md R184). -/
def rightShiftFlag (a : Byte) : Byte := a &&& 0x01#8

/-- The bit a left shift drops: bit 7 of the old value (42_alu.md R185). -/
def leftShiftFlag (a : Byte) : Byte := (a >>> 7) &&& 0x01#8

/-- The result to VX, then the flag to VF, so VF holds the flag when X = 0xF (42_alu.md R172; 90_conflicts.md C4). -/
def State.setResultFlag (s : State) (x : RegIx) (result flag : Byte) : State := (s.setV x result).setVF flag

/-- One set sprite bit at (x, y): the collision flag is decided before the pixel changes, then the pixel is inverted
(44_display.md R221, R223). -/
def State.drawPixel (x y : Nat) (s : State) : State :=
  (if s.pix x y then s.setVF 0x01#8 else s).setPix x y (!s.pix x y)

end Sys2Proof.Machine
end

