-- ==== Sys2Proof/Machine/Alu.lean ====
section
/-! DEFINITION. The ALU (42_alu.md): unsigned bytes modulo 256 (R170), all operands read before any write (R172). -/

namespace Sys2Proof.Machine

/-- The shape of an ALU instruction without a flag: `V[X] <- result` (42_alu.md R172). -/
def writeResult (x : RegIx) (result : Byte) (s : State) : Host.Outcome State Fault Refusal :=
  .next (s.advance.setV x result)

/-- The shape of an ALU instruction with a flag: `V[X] <- result`, then `V[0xF] <- flag` (42_alu.md R172). -/
def writeResultFlag (x : RegIx) (result flag : Byte) (s : State) : Host.Outcome State Fault Refusal :=
  .next (s.advance.setResultFlag x result flag)

/-- `V[X] <- NN` (42_alu.md R175). -/
def execSetRegister (x : RegIx) (nn : Byte) (s : State) : Host.Outcome State Fault Refusal :=
  writeResult x nn s

/-- `V[X] <- (V[X] + NN) mod 2^8`, VF not written (42_alu.md R176). -/
def execAddImmediate (x : RegIx) (nn : Byte) (s : State) : Host.Outcome State Fault Refusal :=
  writeResult x (s.getV x + nn) s

/-- `V[X] <- V[Y]` (42_alu.md R177). -/
def execCopyRegister (x y : RegIx) (s : State) : Host.Outcome State Fault Refusal :=
  writeResult x (s.getV y) s

/-- `V[X] <- V[X] OR V[Y]`, VF not written (42_alu.md R178). -/
def execOr (x y : RegIx) (s : State) : Host.Outcome State Fault Refusal :=
  writeResult x (s.getV x ||| s.getV y) s

/-- `V[X] <- V[X] AND V[Y]`, VF not written (42_alu.md R179). -/
def execAnd (x y : RegIx) (s : State) : Host.Outcome State Fault Refusal :=
  writeResult x (s.getV x &&& s.getV y) s

/-- `V[X] <- V[X] XOR V[Y]`, VF not written (42_alu.md R180). -/
def execXor (x y : RegIx) (s : State) : Host.Outcome State Fault Refusal :=
  writeResult x (s.getV x ^^^ s.getV y) s

/-- `V[X] <- (V[X] + V[Y]) mod 2^8`, then VF is the carry (42_alu.md R181). -/
def execAddRegisters (x y : RegIx) (s : State) : Host.Outcome State Fault Refusal :=
  writeResultFlag x (s.getV x + s.getV y) (carryFlag (s.getV x) (s.getV y)) s

/-- `V[X] <- (V[X] - V[Y]) mod 2^8`, VF not written as a flag (42_alu.md R182, R173). -/
def execSubtract (x y : RegIx) (s : State) : Host.Outcome State Fault Refusal :=
  writeResult x (s.getV x - s.getV y) s

/-- `V[X] <- (V[Y] - V[X]) mod 2^8`, VF not written as a flag (42_alu.md R183, R173). -/
def execReverseSubtract (x y : RegIx) (s : State) : Host.Outcome State Fault Refusal :=
  writeResult x (s.getV y - s.getV x) s

/-- `V[X] <- V[Y] >> 1`, then VF is the bit shifted out (42_alu.md R184). -/
def execShiftRight (x y : RegIx) (s : State) : Host.Outcome State Fault Refusal :=
  writeResultFlag x (s.getV y >>> 1) (rightShiftFlag (s.getV y)) s

/-- `V[X] <- (V[Y] << 1) mod 2^8`, then VF is the bit shifted out (42_alu.md R185). -/
def execShiftLeft (x y : RegIx) (s : State) : Host.Outcome State Fault Refusal :=
  writeResultFlag x (s.getV y <<< 1) (leftShiftFlag (s.getV y)) s

end Sys2Proof.Machine
end

