-- ==== Sys2Proof/Syntax.lean ====
section
/-! DEFINITION. The instructions of the CHIP-8 core: one constructor per row of spec/opcode_table.json, in the table's
order, named after the decoder's variants (30_encoding.md R104, R110). An operand is a bit vector of exactly its field's
width (30_encoding.md R101, R103), so no term of `Instr` holds an operand that its encoding has no room for. -/

namespace Sys2Proof

/-- The decoded instruction (30_encoding.md R105), `Unrecognized` apart: that is the decoder's rejection. -/
inductive Instr where
  /-- `CLS`, 00E0 (44_display.md R220). -/
  | clearScreen
  /-- `RET`, 00EE (41_control_flow.md R151). -/
  | ret
  /-- `JP addr`, 1NNN (41_control_flow.md R150). -/
  | jump (nnn : Addr12)
  /-- `CALL addr`, 2NNN (41_control_flow.md R152). -/
  | call (nnn : Addr12)
  /-- `SE Vx, byte`, 3XNN (41_control_flow.md R154). -/
  | skipIfEqual (x : RegIx) (nn : Byte)
  /-- `SNE Vx, byte`, 4XNN (41_control_flow.md R155). -/
  | skipIfNotEqual (x : RegIx) (nn : Byte)
  /-- `SE Vx, Vy`, 5XY0 (41_control_flow.md R156). -/
  | skipIfRegistersEqual (x y : RegIx)
  /-- `LD Vx, byte`, 6XNN (42_alu.md R175). -/
  | setRegister (x : RegIx) (nn : Byte)
  /-- `ADD Vx, byte`, 7XNN (42_alu.md R176). -/
  | addImmediate (x : RegIx) (nn : Byte)
  /-- `LD Vx, Vy`, 8XY0 (42_alu.md R177). -/
  | copyRegister (x y : RegIx)
  /-- `OR Vx, Vy`, 8XY1 (42_alu.md R178). -/
  | or (x y : RegIx)
  /-- `AND Vx, Vy`, 8XY2 (42_alu.md R179). -/
  | and (x y : RegIx)
  /-- `XOR Vx, Vy`, 8XY3 (42_alu.md R180). -/
  | xor (x y : RegIx)
  /-- `ADD Vx, Vy`, 8XY4 (42_alu.md R181). -/
  | addRegisters (x y : RegIx)
  /-- `SUB Vx, Vy`, 8XY5 (42_alu.md R182). -/
  | subtract (x y : RegIx)
  /-- `SHR Vx, Vy`, 8XY6 (42_alu.md R184). -/
  | shiftRight (x y : RegIx)
  /-- `SUBN Vx, Vy`, 8XY7 (42_alu.md R183). -/
  | reverseSubtract (x y : RegIx)
  /-- `SHL Vx, Vy`, 8XYE (42_alu.md R185). -/
  | shiftLeft (x y : RegIx)
  /-- `SNE Vx, Vy`, 9XY0 (41_control_flow.md R157). -/
  | skipIfRegistersNotEqual (x y : RegIx)
  /-- `LD I, addr`, ANNN (43_index_memory.md R200). -/
  | setIndex (nnn : Addr12)
  /-- `JP V0, addr`, BNNN (41_control_flow.md R153). -/
  | jumpWithOffset (nnn : Addr12)
  /-- `RND Vx, byte`, CXNN (45_timers_keys_random.md R240). -/
  | randomAnd (x : RegIx) (nn : Byte)
  /-- `DRW Vx, Vy, nibble`, DXYN (44_display.md R221). -/
  | draw (x y : RegIx) (n : Nibble)
  /-- `SKP Vx`, EX9E (45_timers_keys_random.md R241). -/
  | skipIfKey (x : RegIx)
  /-- `SKNP Vx`, EXA1 (45_timers_keys_random.md R242). -/
  | skipIfNotKey (x : RegIx)
  /-- `LD Vx, DT`, FX07 (45_timers_keys_random.md R243). -/
  | getDelayTimer (x : RegIx)
  /-- `LD Vx, K`, FX0A (45_timers_keys_random.md R245). -/
  | getKey (x : RegIx)
  /-- `LD DT, Vx`, FX15 (45_timers_keys_random.md R244). -/
  | setDelayTimer (x : RegIx)
  /-- `LD ST, Vx`, FX18 (45_timers_keys_random.md R247). -/
  | setSoundTimer (x : RegIx)
  /-- `ADD I, Vx`, FX1E (43_index_memory.md R201). -/
  | addToIndex (x : RegIx)
  /-- `LD F, Vx`, FX29 (43_index_memory.md R202). -/
  | fontCharacter (x : RegIx)
  /-- `LD B, Vx`, FX33 (43_index_memory.md R203). -/
  | binaryDecimalConversion (x : RegIx)
  /-- `LD [I], Vx`, FX55 (43_index_memory.md R204). -/
  | storeMemory (x : RegIx)
  /-- `LD Vx, [I]`, FX65 (43_index_memory.md R205). -/
  | loadMemory (x : RegIx)
  deriving DecidableEq, Repr

end Sys2Proof
end

