-- ==== Sys2Proof/WellFormed.lean ====
section
/-! DEFINITION. What is well formed of the terms that come from outside the types. An operand of `Instr` is a bit vector of
exactly its field's width, so the syntax needs no check of its own; the checks that are left are on an instruction WORD
(is it one of the opcode table's, 30_encoding.md R104, R106) and on a PROGRAM (does it fit, 70_reset_and_hazards.md R295). -/

namespace Sys2Proof

/-- One row of spec/opcode_table.json: its mnemonic and its mask and match columns. -/
structure OpcodeRow where
  mnemonic : String
  mask : Word
  pattern : Word
  deriving DecidableEq, Repr

/-- The opcode table, in its own order (30_encoding.md R110). -/
def opcodeRows : List OpcodeRow :=
  [⟨"CLS", 0xFFFF#16, 0x00E0#16⟩,
   ⟨"RET", 0xFFFF#16, 0x00EE#16⟩,
   ⟨"JP_addr", 0xF000#16, 0x1000#16⟩,
   ⟨"CALL_addr", 0xF000#16, 0x2000#16⟩,
   ⟨"SE_Vx__byte", 0xF000#16, 0x3000#16⟩,
   ⟨"SNE_Vx__byte", 0xF000#16, 0x4000#16⟩,
   ⟨"SE_Vx__Vy", 0xF00F#16, 0x5000#16⟩,
   ⟨"LD_Vx__byte", 0xF000#16, 0x6000#16⟩,
   ⟨"ADD_Vx__byte", 0xF000#16, 0x7000#16⟩,
   ⟨"LD_Vx__Vy", 0xF00F#16, 0x8000#16⟩,
   ⟨"OR_Vx__Vy", 0xF00F#16, 0x8001#16⟩,
   ⟨"AND_Vx__Vy", 0xF00F#16, 0x8002#16⟩,
   ⟨"XOR_Vx__Vy", 0xF00F#16, 0x8003#16⟩,
   ⟨"ADD_Vx__Vy", 0xF00F#16, 0x8004#16⟩,
   ⟨"SUB_Vx__Vy", 0xF00F#16, 0x8005#16⟩,
   ⟨"SHR_Vx__Vy", 0xF00F#16, 0x8006#16⟩,
   ⟨"SUBN_Vx__Vy", 0xF00F#16, 0x8007#16⟩,
   ⟨"SHL_Vx__Vy", 0xF00F#16, 0x800E#16⟩,
   ⟨"SNE_Vx__Vy", 0xF00F#16, 0x9000#16⟩,
   ⟨"LD_I__addr", 0xF000#16, 0xA000#16⟩,
   ⟨"JP_V0__addr", 0xF000#16, 0xB000#16⟩,
   ⟨"RND_Vx__byte", 0xF000#16, 0xC000#16⟩,
   ⟨"DRW_Vx__Vy__nibble", 0xF000#16, 0xD000#16⟩,
   ⟨"SKP_Vx", 0xF0FF#16, 0xE09E#16⟩,
   ⟨"SKNP_Vx", 0xF0FF#16, 0xE0A1#16⟩,
   ⟨"LD_Vx__DT", 0xF0FF#16, 0xF007#16⟩,
   ⟨"LD_Vx__K", 0xF0FF#16, 0xF00A#16⟩,
   ⟨"LD_DT__Vx", 0xF0FF#16, 0xF015#16⟩,
   ⟨"LD_ST__Vx", 0xF0FF#16, 0xF018#16⟩,
   ⟨"ADD_I__Vx", 0xF0FF#16, 0xF01E#16⟩,
   ⟨"LD_F__Vx", 0xF0FF#16, 0xF029#16⟩,
   ⟨"LD_B__Vx", 0xF0FF#16, 0xF033#16⟩,
   ⟨"LD__I___Vx", 0xF0FF#16, 0xF055#16⟩,
   ⟨"LD_Vx___I", 0xF0FF#16, 0xF065#16⟩  ]

/-- Does the word match the row: its masked bits are the row's fixed bits. -/
def OpcodeRow.matches (r : OpcodeRow) (w : Word) : Bool := w &&& r.mask == r.pattern

/-- The word is one of the 34 instructions' (30_encoding.md R108); every other word is `Unrecognized` (R106). -/
def wellFormedWord (w : Word) : Bool := opcodeRows.any (·.matches w)

/-- The program fits into 0x200..0xFFF (70_reset_and_hazards.md R295). -/
def wellFormedProgram (bytes : List Byte) : Bool := bytes.length ≤ Config.maxProgram

/-- The instruction's mnemonic as spec/opcode_table.json spells it. -/
def Instr.mnemonic : Instr → String
  | .clearScreen => "CLS"
  | .ret => "RET"
  | .jump _ => "JP_addr"
  | .call _ => "CALL_addr"
  | .skipIfEqual _ _ => "SE_Vx__byte"
  | .skipIfNotEqual _ _ => "SNE_Vx__byte"
  | .skipIfRegistersEqual _ _ => "SE_Vx__Vy"
  | .setRegister _ _ => "LD_Vx__byte"
  | .addImmediate _ _ => "ADD_Vx__byte"
  | .copyRegister _ _ => "LD_Vx__Vy"
  | .or _ _ => "OR_Vx__Vy"
  | .and _ _ => "AND_Vx__Vy"
  | .xor _ _ => "XOR_Vx__Vy"
  | .addRegisters _ _ => "ADD_Vx__Vy"
  | .subtract _ _ => "SUB_Vx__Vy"
  | .shiftRight _ _ => "SHR_Vx__Vy"
  | .reverseSubtract _ _ => "SUBN_Vx__Vy"
  | .shiftLeft _ _ => "SHL_Vx__Vy"
  | .skipIfRegistersNotEqual _ _ => "SNE_Vx__Vy"
  | .setIndex _ => "LD_I__addr"
  | .jumpWithOffset _ => "JP_V0__addr"
  | .randomAnd _ _ => "RND_Vx__byte"
  | .draw _ _ _ => "DRW_Vx__Vy__nibble"
  | .skipIfKey _ => "SKP_Vx"
  | .skipIfNotKey _ => "SKNP_Vx"
  | .getDelayTimer _ => "LD_Vx__DT"
  | .getKey _ => "LD_Vx__K"
  | .setDelayTimer _ => "LD_DT__Vx"
  | .setSoundTimer _ => "LD_ST__Vx"
  | .addToIndex _ => "ADD_I__Vx"
  | .fontCharacter _ => "LD_F__Vx"
  | .binaryDecimalConversion _ => "LD_B__Vx"
  | .storeMemory _ => "LD__I___Vx"
  | .loadMemory _ => "LD_Vx___I"

end Sys2Proof
end

