-- ==== Sys2Proof/Decode.lean ====
section
/-! DEFINITION. The decoder, total on every word and every list of bytes, rejecting by name (30_encoding.md R104, R106), and
the encoder, written from the same layouts (R101, R102; the "Encoding" line of each instruction's rule). -/

namespace Sys2Proof

/-- Why no instruction was read. -/
inductive DecodeError where
  /-- The word matches no row: the decoder's `Unrecognized(w)` (30_encoding.md R106). -/
  | unrecognized (w : Word)
  /-- Fewer than two bytes were given: every instruction has exactly two (30_encoding.md R100). -/
  | truncated
  deriving DecidableEq, Repr

/-- The field `op`, the first nibble, w[15:12] (30_encoding.md R101). -/
def opField (w : Word) : BitVec 4 := w.extractLsb' 12 4

/-- The field `X`, the second nibble, w[11:8] (30_encoding.md R101). -/
def xField (w : Word) : RegIx := w.extractLsb' 8 4

/-- The field `Y`, the third nibble, w[7:4] (30_encoding.md R101). -/
def yField (w : Word) : RegIx := w.extractLsb' 4 4

/-- The field `N`, the fourth nibble, w[3:0] (30_encoding.md R101). -/
def nField (w : Word) : Nibble := w.extractLsb' 0 4

/-- The field `NN`, the low byte, w[7:0] (30_encoding.md R101). -/
def nnField (w : Word) : Byte := w.extractLsb' 0 8

/-- The field `NNN`, the low 12 bits, w[11:0] (30_encoding.md R101). -/
def nnnField (w : Word) : Addr12 := w.extractLsb' 0 12

/-- `decode` of 30_encoding.md R104: rows taken top to bottom, the first that matches wins. -/
def decode (w : Word) : Except DecodeError Instr :=
  let op := opField w
  let x := xField w
  let y := yField w
  let n := nField w
  let nn := nnField w
  let nnn := nnnField w
  if w = 0x00E0#16 then .ok .clearScreen
  else if w = 0x00EE#16 then .ok .ret
  else if op = 0x1#4 then .ok (.jump nnn)
  else if op = 0x2#4 then .ok (.call nnn)
  else if op = 0x3#4 then .ok (.skipIfEqual x nn)
  else if op = 0x4#4 then .ok (.skipIfNotEqual x nn)
  else if op = 0x5#4 ∧ n = 0x0#4 then .ok (.skipIfRegistersEqual x y)
  else if op = 0x6#4 then .ok (.setRegister x nn)
  else if op = 0x7#4 then .ok (.addImmediate x nn)
  else if op = 0x8#4 ∧ n = 0x0#4 then .ok (.copyRegister x y)
  else if op = 0x8#4 ∧ n = 0x1#4 then .ok (.or x y)
  else if op = 0x8#4 ∧ n = 0x2#4 then .ok (.and x y)
  else if op = 0x8#4 ∧ n = 0x3#4 then .ok (.xor x y)
  else if op = 0x8#4 ∧ n = 0x4#4 then .ok (.addRegisters x y)
  else if op = 0x8#4 ∧ n = 0x5#4 then .ok (.subtract x y)
  else if op = 0x8#4 ∧ n = 0x6#4 then .ok (.shiftRight x y)
  else if op = 0x8#4 ∧ n = 0x7#4 then .ok (.reverseSubtract x y)
  else if op = 0x8#4 ∧ n = 0xE#4 then .ok (.shiftLeft x y)
  else if op = 0x9#4 ∧ n = 0x0#4 then .ok (.skipIfRegistersNotEqual x y)
  else if op = 0xA#4 then .ok (.setIndex nnn)
  else if op = 0xB#4 then .ok (.jumpWithOffset nnn)
  else if op = 0xC#4 then .ok (.randomAnd x nn)
  else if op = 0xD#4 then .ok (.draw x y n)
  else if op = 0xE#4 ∧ nn = 0x9E#8 then .ok (.skipIfKey x)
  else if op = 0xE#4 ∧ nn = 0xA1#8 then .ok (.skipIfNotKey x)
  else if op = 0xF#4 ∧ nn = 0x07#8 then .ok (.getDelayTimer x)
  else if op = 0xF#4 ∧ nn = 0x0A#8 then .ok (.getKey x)
  else if op = 0xF#4 ∧ nn = 0x15#8 then .ok (.setDelayTimer x)
  else if op = 0xF#4 ∧ nn = 0x18#8 then .ok (.setSoundTimer x)
  else if op = 0xF#4 ∧ nn = 0x1E#8 then .ok (.addToIndex x)
  else if op = 0xF#4 ∧ nn = 0x29#8 then .ok (.fontCharacter x)
  else if op = 0xF#4 ∧ nn = 0x33#8 then .ok (.binaryDecimalConversion x)
  else if op = 0xF#4 ∧ nn = 0x55#8 then .ok (.storeMemory x)
  else if op = 0xF#4 ∧ nn = 0x65#8 then .ok (.loadMemory x)
  else .error (.unrecognized w)

/-- Two bytes as one word, the byte of the lower address high (20_memory.md R72). -/
def bigEndian (hi lo : Byte) : Word := hi ++ lo

/-- The word's bytes as memory holds them, the high byte first (20_memory.md R72). -/
def wordBytes (w : Word) : List Byte := [w.extractLsb' 8 8, w.extractLsb' 0 8]

/-- The instruction at the head of a list of bytes, with the bytes that follow it. -/
def decodeBytes : List Byte → Except DecodeError (Instr × List Byte)
  | hi :: lo :: rest =>
    match decode (bigEndian hi lo) with
    | .ok i => .ok (i, rest)
    | .error e => .error e
  | _ => .error .truncated

/-- The word of a table's row given as a number whose bit 0 is the word's least significant bit; bits from `nbits` up
are 0. Every row of this table has 16 bits. -/
def tableWord (nbits w : Nat) : Word := BitVec.ofNat 16 (w % 2 ^ nbits)

/-- What the decoder reads from the bytes of a table's word (see `tableWord`), laid out as memory holds them. -/
def decodeTableWord (nbits w : Nat) : Option Instr :=
  match decodeBytes (wordBytes (tableWord nbits w)) with
  | .ok (i, _) => some i
  | .error _ => none

/-- Format `A`: op, NNN (30_encoding.md R102). -/
def formA (op : BitVec 4) (nnn : Addr12) : Word := op ++ nnn

/-- Format `XNN`: op, X, NN; format `X` is the same with NN fixed (30_encoding.md R102). -/
def formXNN (op : BitVec 4) (x : RegIx) (nn : Byte) : Word := op ++ (x ++ nn : BitVec 12)

/-- Format `XYN`: op, X, Y, N; format `XY` is the same with N fixed (30_encoding.md R102). -/
def formXYN (op : BitVec 4) (x y : RegIx) (n : Nibble) : Word := op ++ (x ++ (y ++ n : BitVec 8) : BitVec 12)

/-- The word of an instruction: the "Encoding" line of its rule. -/
def encode : Instr → Word
  | .clearScreen => 0x00E0#16
  | .ret => 0x00EE#16
  | .jump nnn => formA 0x1#4 nnn
  | .call nnn => formA 0x2#4 nnn
  | .skipIfEqual x nn => formXNN 0x3#4 x nn
  | .skipIfNotEqual x nn => formXNN 0x4#4 x nn
  | .skipIfRegistersEqual x y => formXYN 0x5#4 x y 0x0#4
  | .setRegister x nn => formXNN 0x6#4 x nn
  | .addImmediate x nn => formXNN 0x7#4 x nn
  | .copyRegister x y => formXYN 0x8#4 x y 0x0#4
  | .or x y => formXYN 0x8#4 x y 0x1#4
  | .and x y => formXYN 0x8#4 x y 0x2#4
  | .xor x y => formXYN 0x8#4 x y 0x3#4
  | .addRegisters x y => formXYN 0x8#4 x y 0x4#4
  | .subtract x y => formXYN 0x8#4 x y 0x5#4
  | .shiftRight x y => formXYN 0x8#4 x y 0x6#4
  | .reverseSubtract x y => formXYN 0x8#4 x y 0x7#4
  | .shiftLeft x y => formXYN 0x8#4 x y 0xE#4
  | .skipIfRegistersNotEqual x y => formXYN 0x9#4 x y 0x0#4
  | .setIndex nnn => formA 0xA#4 nnn
  | .jumpWithOffset nnn => formA 0xB#4 nnn
  | .randomAnd x nn => formXNN 0xC#4 x nn
  | .draw x y n => formXYN 0xD#4 x y n
  | .skipIfKey x => formXNN 0xE#4 x 0x9E#8
  | .skipIfNotKey x => formXNN 0xE#4 x 0xA1#8
  | .getDelayTimer x => formXNN 0xF#4 x 0x07#8
  | .getKey x => formXNN 0xF#4 x 0x0A#8
  | .setDelayTimer x => formXNN 0xF#4 x 0x15#8
  | .setSoundTimer x => formXNN 0xF#4 x 0x18#8
  | .addToIndex x => formXNN 0xF#4 x 0x1E#8
  | .fontCharacter x => formXNN 0xF#4 x 0x29#8
  | .binaryDecimalConversion x => formXNN 0xF#4 x 0x33#8
  | .storeMemory x => formXNN 0xF#4 x 0x55#8
  | .loadMemory x => formXNN 0xF#4 x 0x65#8

/-- An instruction is well formed when its word is one of the opcode table's. `Instr`'s types leave no other. -/
def Instr.wellFormed (i : Instr) : Bool := wellFormedWord (encode i)

end Sys2Proof
end

