-- ==== Sys2Proof/Machine/ControlFlow.lean ====
section
/-! DEFINITION. Control flow (41_control_flow.md). Every meaning takes the state BEFORE the step, with PC = A, and begins with
the fetch's increment; a fault is raised from that same state (log entry 6). -/

namespace Sys2Proof.Machine

/-- `PC <- zext_16(NNN)` (41_control_flow.md R150). -/
def execJump (nnn : Addr12) (s : State) : Host.Outcome State Fault Refusal :=
  .next (s.advance.setPc (addrOperand nnn))

/-- `PC <- zext_16(NNN) + zext_16(V[0])`, always V0, no mask (41_control_flow.md R153). -/
def execJumpWithOffset (nnn : Addr12) (s : State) : Host.Outcome State Fault Refusal :=
  .next (s.advance.setPc (addrOperand nnn + zext16 (s.advance.getV 0x0#4)))

/-- `Push(PC)`, then `PC <- zext_16(NNN)` (41_control_flow.md R152). -/
def execCall (nnn : Addr12) (s : State) : Host.Outcome State Fault Refusal :=
  match s.advance.push s.advance.pc with
  | some t => .next (t.setPc (addrOperand nnn))
  | none => raise (.stackOverflow s.pc (encode (.call nnn))) s

/-- `PC <- Pop()` (41_control_flow.md R151). -/
def execRet (s : State) : Host.Outcome State Fault Refusal :=
  match s.advance.pop with
  | some (w, t) => .next (t.setPc w)
  | none => raise (.stackUnderflow s.pc (encode .ret)) s

/-- `if V[X] = NN: Skip()` (41_control_flow.md R154). -/
def execSkipIfEqual (x : RegIx) (nn : Byte) (s : State) : Host.Outcome State Fault Refusal :=
  .next (s.advance.skipIf (s.advance.getV x == nn))

/-- `if V[X] ≠ NN: Skip()` (41_control_flow.md R155). -/
def execSkipIfNotEqual (x : RegIx) (nn : Byte) (s : State) : Host.Outcome State Fault Refusal :=
  .next (s.advance.skipIf (s.advance.getV x != nn))

/-- `if V[X] = V[Y]: Skip()` (41_control_flow.md R156). -/
def execSkipIfRegistersEqual (x y : RegIx) (s : State) : Host.Outcome State Fault Refusal :=
  .next (s.advance.skipIf (s.advance.getV x == s.advance.getV y))

/-- `if V[X] ≠ V[Y]: Skip()` (41_control_flow.md R157). -/
def execSkipIfRegistersNotEqual (x y : RegIx) (s : State) : Host.Outcome State Fault Refusal :=
  .next (s.advance.skipIf (s.advance.getV x != s.advance.getV y))

end Sys2Proof.Machine
end

