-- ==== Sys2Proof/Machine/Display.lean ====
section
/-! DEFINITION. The display instructions (44_display.md): the loops of R221 in its own order, row by row and column by
column. -/

namespace Sys2Proof.Machine

/-- The first `c` columns of a sprite row `b` at (x0, y): a column past the right edge is dropped, bit 7 is the leftmost
(44_display.md R221, R222; D33). -/
def drawColumns (b : Byte) (x0 y : Nat) : Nat → State → State
  | 0, s => s
  | c + 1, s =>
    let t := drawColumns b x0 y c s
    if Config.width ≤ x0 + c then t
    else if b.getLsbD (7 - c) then t.drawPixel (x0 + c) y
    else t

/-- The first `r` rows of the sprite at I: a row past the bottom edge is dropped (44_display.md R221, R222). -/
def drawRows (x0 y0 : Nat) : Nat → State → State
  | 0, s => s
  | r + 1, s =>
    let t := drawRows x0 y0 r s
    if Config.height ≤ y0 + r then t
    else drawColumns (t.memRead (t.blockAddr r)) x0 (y0 + r) Config.spriteWidth t

/-- Every pixel off, VF not changed (44_display.md R220). -/
def execClearScreen (s : State) : Host.Outcome State Fault Refusal :=
  .next s.advance.clearDisplay

/-- The draw: coordinates read, all N rows checked, VF cleared, then the rows (44_display.md R221, R224; D17, D19). -/
def execDraw (x y : RegIx) (n : Nibble) (s : State) : Host.Outcome State Fault Refusal :=
  checkedBlock s (encode (.draw x y n)) n.toNat
    (drawRows (s.originX x) (s.originY y) n.toNat (s.advance.setVF 0x00#8))

end Sys2Proof.Machine
end

