-- ==== Sys2Proof/Machine/IndexMemory.lean ====
section
/-! DEFINITION. The index register and memory transfer (43_index_memory.md). The block instructions check every address
before any effect and leave I unchanged (20_memory.md R76; 43_index_memory.md R206). -/

namespace Sys2Proof.Machine

/-- `I <- zext_16(NNN)` (43_index_memory.md R200). -/
def execSetIndex (nnn : Addr12) (s : State) : Host.Outcome State Fault Refusal :=
  .next (s.advance.setI (addrOperand nnn))

/-- `I <- (I + zext_16(V[X])) mod 2^16`, VF not written (43_index_memory.md R201). -/
def execAddToIndex (x : RegIx) (s : State) : Host.Outcome State Fault Refusal :=
  .next (s.advance.setI (s.i + zext16 (s.getV x)))

/-- `I <- FONT_BASE + 5 * (V[X] AND 0x0F)` (43_index_memory.md R202). -/
def execFontCharacter (x : RegIx) (s : State) : Host.Outcome State Fault Refusal :=
  .next (s.advance.setI (glyphAddr (s.getV x)))

/-- The decimal digits of V[X] to I, I+1, I+2 (43_index_memory.md R203). -/
def execBinaryDecimalConversion (x : RegIx) (s : State) : Host.Outcome State Fault Refusal :=
  checkedBlock s (encode (.binaryDecimalConversion x)) 3
    { s.advance with mem := s.mem.writeList (s.blockAddr 0) (decimalDigits (s.getV x)) }

/-- V0..VX to memory from I on (43_index_memory.md R204). -/
def execStoreMemory (x : RegIx) (s : State) : Host.Outcome State Fault Refusal :=
  checkedBlock s (encode (.storeMemory x)) (blockLength x) (State.storeRegs (blockLength x) s.advance)

/-- V0..VX from memory from I on (43_index_memory.md R205). -/
def execLoadMemory (x : RegIx) (s : State) : Host.Outcome State Fault Refusal :=
  checkedBlock s (encode (.loadMemory x)) (blockLength x) (State.loadRegs (blockLength x) s.advance)

end Sys2Proof.Machine
end

