-- ==== Sys2Proof/Machine/TimersKeysRandom.lean ====
section
/-! DEFINITION. Random, keys, key wait and timers (45_timers_keys_random.md). -/

namespace Sys2Proof.Machine

/-- `V[X] <- Rand() AND NN`; `Rand()` is the byte on the step's `rand` port (45_timers_keys_random.md R240). -/
def execRandomAnd (x : RegIx) (nn : Byte) (s : State) : Host.Outcome State Fault Refusal :=
  .next (s.advance.setV x (s.rand &&& nn))

/-- The two key tests: the fault of 45_timers_keys_random.md R248, or a skip where the key's level is `pressed`. -/
def keyTest (w : Word) (x : RegIx) (pressed : Bool) (s : State) : Host.Outcome State Fault Refusal :=
  match s.keyOperand x with
  | none => raise (.keyIndexOutOfRange s.pc w (s.getV x)) s
  | some k => .next (s.advance.skipIf (s.key k == pressed))

/-- `if Key(V[X]): Skip()` (45_timers_keys_random.md R241). -/
def execSkipIfKey (x : RegIx) (s : State) : Host.Outcome State Fault Refusal :=
  keyTest (encode (.skipIfKey x)) x true s

/-- `if not Key(V[X]): Skip()` (45_timers_keys_random.md R242). -/
def execSkipIfNotKey (x : RegIx) (s : State) : Host.Outcome State Fault Refusal :=
  keyTest (encode (.skipIfNotKey x)) x false s

/-- `V[X] <- DT` (45_timers_keys_random.md R243). -/
def execGetDelayTimer (x : RegIx) (s : State) : Host.Outcome State Fault Refusal :=
  .next (s.advance.setV x s.dt)

/-- `status <- AwaitingKey(X)`, the snapshot not examined, PC past the instruction (45_timers_keys_random.md R245). -/
def execGetKey (x : RegIx) (s : State) : Host.Outcome State Fault Refusal :=
  .next (s.advance.setStatus (.awaitingKey x))

/-- `DT <- V[X]` (45_timers_keys_random.md R244). -/
def execSetDelayTimer (x : RegIx) (s : State) : Host.Outcome State Fault Refusal :=
  .next (s.advance.setDt (s.getV x))

/-- `ST <- V[X]` (45_timers_keys_random.md R247). -/
def execSetSoundTimer (x : RegIx) (s : State) : Host.Outcome State Fault Refusal :=
  .next (s.advance.setSt (s.getV x))

end Sys2Proof.Machine
end

