-- ==== Sys2Proof/Machine/Dispatch.lean ====
section
/-! DEFINITION. The execute phase (30_encoding.md R105): one arm per constructor of Instr. exec takes the state before the
step, with PC at the instruction, and answers the state after it, fault entry included. -/

namespace Sys2Proof.Machine

def exec (i : Instr) (s : State) : Host.Outcome State Fault Refusal :=
  match i with
  | .clearScreen => Sys2Proof.Machine.execClearScreen s
  | .ret => Sys2Proof.Machine.execRet s
  | .jump nnn => Sys2Proof.Machine.execJump nnn s
  | .call nnn => Sys2Proof.Machine.execCall nnn s
  | .skipIfEqual x nn => Sys2Proof.Machine.execSkipIfEqual x nn s
  | .skipIfNotEqual x nn => Sys2Proof.Machine.execSkipIfNotEqual x nn s
  | .skipIfRegistersEqual x y => Sys2Proof.Machine.execSkipIfRegistersEqual x y s
  | .setRegister x nn => Sys2Proof.Machine.execSetRegister x nn s
  | .addImmediate x nn => Sys2Proof.Machine.execAddImmediate x nn s
  | .copyRegister x y => Sys2Proof.Machine.execCopyRegister x y s
  | .or x y => Sys2Proof.Machine.execOr x y s
  | .and x y => Sys2Proof.Machine.execAnd x y s
  | .xor x y => Sys2Proof.Machine.execXor x y s
  | .addRegisters x y => Sys2Proof.Machine.execAddRegisters x y s
  | .subtract x y => Sys2Proof.Machine.execSubtract x y s
  | .shiftRight x y => Sys2Proof.Machine.execShiftRight x y s
  | .reverseSubtract x y => Sys2Proof.Machine.execReverseSubtract x y s
  | .shiftLeft x y => Sys2Proof.Machine.execShiftLeft x y s
  | .skipIfRegistersNotEqual x y => Sys2Proof.Machine.execSkipIfRegistersNotEqual x y s
  | .setIndex nnn => Sys2Proof.Machine.execSetIndex nnn s
  | .jumpWithOffset nnn => Sys2Proof.Machine.execJumpWithOffset nnn s
  | .randomAnd x nn => Sys2Proof.Machine.execRandomAnd x nn s
  | .draw x y n => Sys2Proof.Machine.execDraw x y n s
  | .skipIfKey x => Sys2Proof.Machine.execSkipIfKey x s
  | .skipIfNotKey x => Sys2Proof.Machine.execSkipIfNotKey x s
  | .getDelayTimer x => Sys2Proof.Machine.execGetDelayTimer x s
  | .getKey x => Sys2Proof.Machine.execGetKey x s
  | .setDelayTimer x => Sys2Proof.Machine.execSetDelayTimer x s
  | .setSoundTimer x => Sys2Proof.Machine.execSetSoundTimer x s
  | .addToIndex x => Sys2Proof.Machine.execAddToIndex x s
  | .fontCharacter x => Sys2Proof.Machine.execFontCharacter x s
  | .binaryDecimalConversion x => Sys2Proof.Machine.execBinaryDecimalConversion x s
  | .storeMemory x => Sys2Proof.Machine.execStoreMemory x s
  | .loadMemory x => Sys2Proof.Machine.execLoadMemory x s

end Sys2Proof.Machine
end

