-- ==== Sys2Proof/Machine/Fetch.lean ====
section
/-! DEFINITION. The first half of `FetchExecute()` (40_fetch_and_step.md R131): the instruction at PC, or the fault of the
fetch (R133) or of a word that is no instruction (60_exceptions.md R261), in the order of 60_exceptions.md R263; and the
placing of a word where the next step fetches. -/

namespace Sys2Proof.Machine

/-- The fault a rejected word raises (60_exceptions.md R261). -/
def decodeFault (pc w : Word) : DecodeError → FaultInfo
  | .unrecognized u => .invalidOpcode pc u
  | .truncated => .invalidOpcode pc w

/-- Fetch and decode at PC. -/
def State.fetchInstr (s : State) : Except FaultInfo Instr :=
  match s.fetch with
  | .error f => .error f
  | .ok w =>
    match decode w with
    | .ok i => .ok i
    | .error e => .error (decodeFault s.pc w e)

/-- The next step is a fetch: status `Running`, and PC moved to `RESET_PC` where both bytes at PC do not exist. -/
def State.readyToFetch (s : State) : State :=
  match firstOutside s.pc.toNat 2 with
  | none => { s with status := .running }
  | some _ => { s with status := .running, pc := Config.resetPc }

/-- The word's two bytes at PC, big-endian (20_memory.md R72). -/
def State.placeWord (s : State) (w : Word) : State :=
  { s with mem := s.mem.writeList s.pc.toNat (wordBytes w) }

end Sys2Proof.Machine
end

