-- ==== Sys2Proof/Machine/Step.lean ====
section
/-! DEFINITION. One step (40_fetch_and_step.md R130): the driver's ticks, then exactly one of nothing, a key-wait poll and a
fetch-execute, then the next step's inputs. -/

namespace Sys2Proof.Machine

/-- `FetchExecute()` (40_fetch_and_step.md R131). -/
def fetchExecute (s : State) : Host.Outcome State Fault Refusal :=
  match s.fetchInstr with
  | .error f => raise f s
  | .ok i => exec i s

/-- `Step()`, its three cases by the status before the step (40_fetch_and_step.md R130). -/
def coreStep (s : State) : Host.Outcome State Fault Refusal :=
  match s.status with
  | .faulted _ => .next s
  | .awaitingKey r => .next (s.keyWaitPoll r)
  | .running => fetchExecute s

/-- One step of the machine with the driver's inputs around it (log entries 1, 2, 4). -/
def step (s : State) : Host.Outcome State Fault Refusal := endStep (coreStep s.takeTicks)

/-- `s` with the word placed where the next step fetches; status and PC change only where the fetch needs it
(log entry 10). -/
def State.withFetchWord (s : State) (nbits w : Nat) : State := s.readyToFetch.placeWord (tableWord nbits w)

end Sys2Proof.Machine
end

