-- ==== Sys2Proof/Safety.lean ====
section
/-! DEFINITION. The terms claims are stated in: the machine's invariant, a safe state, what each instruction may change (its
frame), and the bits of a sprite on the screen. -/

namespace Sys2Proof.Machine

/-- The cause 60_exceptions.md R260 gives for each fault, read off the record. -/
def FaultInfo.hasCause : FaultInfo → Prop
  | .memoryAccessViolation _ _ a => 0xFFF < a
  | .stackOverflow _ w => ∃ nnn, w = encode (.call nnn)
  | .stackUnderflow _ w => w = 0x00EE#16
  | .invalidOpcode _ w => decode w = .error (.unrecognized w)
  | .keyIndexOutOfRange _ _ b => 0x0F < b.toNat

/-- What every step keeps: memory is in its canonical form and lists existing addresses only, and a fault's record names
the address PC still holds (60_exceptions.md R262, R264; the spec's own decision D7) and a cause of its kind. -/
def State.Inv (s : State) : Prop :=
  s.mem.wf ∧ ∀ f, s.status = .faulted f → f.pc = s.pc ∧ f.hasCause

/-- The state is safe: no fault has ended execution (10_state.md R45). -/
def State.Safe (s : State) : Prop := ∀ f, s.status ≠ .faulted f

/-- What a step or an instruction may change; PC apart, which each statement gives itself. -/
structure Frame where
  /-- The general registers that may change. -/
  regs : List RegIx := []
  /-- May I change. -/
  index : Bool := false
  /-- May SP and the stack change. -/
  stack : Bool := false
  /-- May DT change. -/
  delay : Bool := false
  /-- May ST change. -/
  sound : Bool := false
  /-- The addresses of memory stored to. -/
  stored : List Nat := []
  /-- May the display change. -/
  screen : Bool := false
  /-- May the status change. -/
  status : Bool := false
  /-- May the driver's ports change. -/
  ports : Bool := false

/-- `t` differs from `s` only where the frame allows it (PC apart): every other register, every byte of memory, every
pixel and every other field is as before. -/
def Frame.Holds (f : Frame) (s t : State) : Prop :=
  (∀ r, r ∉ f.regs → t.getV r = s.getV r) ∧
  (f.index = false → t.i = s.i) ∧
  (f.stack = false → t.sp = s.sp ∧ t.stack = s.stack) ∧
  (f.delay = false → t.dt = s.dt) ∧
  (f.sound = false → t.st = s.st) ∧
  (∀ a, a ∉ f.stored → t.memRead a = s.memRead a) ∧
  (f.screen = false → ∀ x y, t.pix x y = s.pix x y) ∧
  (f.status = false → t.status = s.status) ∧
  (f.ports = false → t.keys = s.keys ∧ t.rand = s.rand ∧ t.ticks = s.ticks ∧ t.draws = s.draws)

/-- V0..VX. -/
def upTo (x : RegIx) : List RegIx := (List.range (blockLength x)).map (BitVec.ofNat 4)

/-- I, I+1, …, I+n-1, by the address function the meanings use. -/
def State.blockAddrs (s : State) (n : Nat) : List Nat := (List.range n).map s.blockAddr

/-- The sprite of `n` rows at I, with its origin at (x0, y0), has a set bit at the pixel (x, y) of the screen: the wrap is
applied to the origin alone, and what lies past an edge is on no pixel (44_display.md R221, R222). -/
def State.spriteBit (s : State) (x0 y0 n x y : Nat) : Bool :=
  decide (x < 64) && decide (y < 32) && decide (x0 ≤ x) && decide (x < x0 + 8) && decide (y0 ≤ y) && decide (y < y0 + n) &&
    (s.memRead (s.blockAddr (y - y0))).getLsbD (7 - (x - x0))

end Sys2Proof.Machine

namespace Sys2Proof

open Sys2Proof.Machine

/-- What each instruction may write (10_state.md R32, R33, R36, R38; 20_memory.md R71; 44_display.md R225). The status is
open where the instruction can raise a fault or enter the key wait. -/
def Instr.frame (i : Instr) (s : State) : Frame :=
  match i with
  | .clearScreen => { screen := true }
  | .ret => { stack := true, status := true }
  | .jump _ => {}
  | .call _ => { stack := true, status := true }
  | .skipIfEqual _ _ => {}
  | .skipIfNotEqual _ _ => {}
  | .skipIfRegistersEqual _ _ => {}
  | .setRegister x _ => { regs := [x] }
  | .addImmediate x _ => { regs := [x] }
  | .copyRegister x _ => { regs := [x] }
  | .or x _ => { regs := [x] }
  | .and x _ => { regs := [x] }
  | .xor x _ => { regs := [x] }
  | .addRegisters x _ => { regs := [x, Config.vf] }
  | .subtract x _ => { regs := [x] }
  | .shiftRight x _ => { regs := [x, Config.vf] }
  | .reverseSubtract x _ => { regs := [x] }
  | .shiftLeft x _ => { regs := [x, Config.vf] }
  | .skipIfRegistersNotEqual _ _ => {}
  | .setIndex _ => { index := true }
  | .jumpWithOffset _ => {}
  | .randomAnd x _ => { regs := [x] }
  | .draw _ _ _ => { regs := [Config.vf], screen := true, status := true }
  | .skipIfKey _ => { status := true }
  | .skipIfNotKey _ => { status := true }
  | .getDelayTimer x => { regs := [x] }
  | .getKey _ => { status := true }
  | .setDelayTimer _ => { delay := true }
  | .setSoundTimer _ => { sound := true }
  | .addToIndex _ => { index := true }
  | .fontCharacter _ => { index := true }
  | .binaryDecimalConversion _ => { stored := s.blockAddrs 3, status := true }
  | .storeMemory x => { stored := s.blockAddrs (blockLength x), status := true }
  | .loadMemory x => { regs := upTo x, status := true }

/-- The instruction sets PC itself or may skip; every other one leaves PC = A + 2 (40_fetch_and_step.md R132). -/
def Instr.transfersControl : Instr → Bool
  | .ret | .jump _ | .call _ | .jumpWithOffset _ => true
  | .skipIfEqual _ _ | .skipIfNotEqual _ _ | .skipIfRegistersEqual _ _ | .skipIfRegistersNotEqual _ _ => true
  | .skipIfKey _ | .skipIfNotKey _ => true
  | .clearScreen | .setRegister _ _ | .addImmediate _ _ | .copyRegister _ _ => false
  | .or _ _ | .and _ _ | .xor _ _ | .addRegisters _ _ | .subtract _ _ | .reverseSubtract _ _ => false
  | .shiftRight _ _ | .shiftLeft _ _ | .setIndex _ | .addToIndex _ | .fontCharacter _ => false
  | .randomAnd _ _ | .draw _ _ _ | .getDelayTimer _ | .getKey _ | .setDelayTimer _ | .setSoundTimer _ => false
  | .binaryDecimalConversion _ | .storeMemory _ | .loadMemory _ => false

end Sys2Proof
end

