-- ==== Sys2Proof/Laws/State.lean ====
section
/-! SUPPORT. The small lemmas of the state's updates: one per field and update and one per accessor that an update leaves
alone, all true by rfl, so that no later proof unfolds a record update. -/

namespace Sys2Proof.Machine

/-! ### setV -/

@[simp] theorem State.setV_v (s : State) (x : RegIx) (b : Byte) : (s.setV x b).v = s.v.set x.toNat b x.isLt := rfl
@[simp] theorem State.setV_i (s : State) (x : RegIx) (b : Byte) : (s.setV x b).i = s.i := rfl
@[simp] theorem State.setV_pc (s : State) (x : RegIx) (b : Byte) : (s.setV x b).pc = s.pc := rfl
@[simp] theorem State.setV_sp (s : State) (x : RegIx) (b : Byte) : (s.setV x b).sp = s.sp := rfl
@[simp] theorem State.setV_stack (s : State) (x : RegIx) (b : Byte) : (s.setV x b).stack = s.stack := rfl
@[simp] theorem State.setV_dt (s : State) (x : RegIx) (b : Byte) : (s.setV x b).dt = s.dt := rfl
@[simp] theorem State.setV_st (s : State) (x : RegIx) (b : Byte) : (s.setV x b).st = s.st := rfl
@[simp] theorem State.setV_mem (s : State) (x : RegIx) (b : Byte) : (s.setV x b).mem = s.mem := rfl
@[simp] theorem State.setV_display (s : State) (x : RegIx) (b : Byte) : (s.setV x b).display = s.display := rfl
@[simp] theorem State.setV_status (s : State) (x : RegIx) (b : Byte) : (s.setV x b).status = s.status := rfl
@[simp] theorem State.setV_keys (s : State) (x : RegIx) (b : Byte) : (s.setV x b).keys = s.keys := rfl
@[simp] theorem State.setV_rand (s : State) (x : RegIx) (b : Byte) : (s.setV x b).rand = s.rand := rfl
@[simp] theorem State.setV_ticks (s : State) (x : RegIx) (b : Byte) : (s.setV x b).ticks = s.ticks := rfl
@[simp] theorem State.setV_draws (s : State) (x : RegIx) (b : Byte) : (s.setV x b).draws = s.draws := rfl
@[simp] theorem State.memRead_setV (s : State) (x : RegIx) (b : Byte) (p : Nat) : (s.setV x b).memRead p = s.memRead p := rfl
@[simp] theorem State.pix_setV (s : State) (x : RegIx) (b : Byte) (c d : Nat) : (s.setV x b).pix c d = s.pix c d := rfl
@[simp] theorem State.key_setV (s : State) (x : RegIx) (b : Byte) (k : RegIx) : (s.setV x b).key k = s.key k := rfl

/-! ### setVF -/

@[simp] theorem State.setVF_v (s : State) (b : Byte) : (s.setVF b).v = s.v.set 15 b := rfl
@[simp] theorem State.setVF_i (s : State) (b : Byte) : (s.setVF b).i = s.i := rfl
@[simp] theorem State.setVF_pc (s : State) (b : Byte) : (s.setVF b).pc = s.pc := rfl
@[simp] theorem State.setVF_sp (s : State) (b : Byte) : (s.setVF b).sp = s.sp := rfl
@[simp] theorem State.setVF_stack (s : State) (b : Byte) : (s.setVF b).stack = s.stack := rfl
@[simp] theorem State.setVF_dt (s : State) (b : Byte) : (s.setVF b).dt = s.dt := rfl
@[simp] theorem State.setVF_st (s : State) (b : Byte) : (s.setVF b).st = s.st := rfl
@[simp] theorem State.setVF_mem (s : State) (b : Byte) : (s.setVF b).mem = s.mem := rfl
@[simp] theorem State.setVF_display (s : State) (b : Byte) : (s.setVF b).display = s.display := rfl
@[simp] theorem State.setVF_status (s : State) (b : Byte) : (s.setVF b).status = s.status := rfl
@[simp] theorem State.setVF_keys (s : State) (b : Byte) : (s.setVF b).keys = s.keys := rfl
@[simp] theorem State.setVF_rand (s : State) (b : Byte) : (s.setVF b).rand = s.rand := rfl
@[simp] theorem State.setVF_ticks (s : State) (b : Byte) : (s.setVF b).ticks = s.ticks := rfl
@[simp] theorem State.setVF_draws (s : State) (b : Byte) : (s.setVF b).draws = s.draws := rfl
@[simp] theorem State.memRead_setVF (s : State) (b : Byte) (p : Nat) : (s.setVF b).memRead p = s.memRead p := rfl
@[simp] theorem State.pix_setVF (s : State) (b : Byte) (c d : Nat) : (s.setVF b).pix c d = s.pix c d := rfl
@[simp] theorem State.key_setVF (s : State) (b : Byte) (k : RegIx) : (s.setVF b).key k = s.key k := rfl

/-! ### setI -/

@[simp] theorem State.setI_v (s : State) (w : Word) : (s.setI w).v = s.v := rfl
@[simp] theorem State.setI_i (s : State) (w : Word) : (s.setI w).i = w := rfl
@[simp] theorem State.setI_pc (s : State) (w : Word) : (s.setI w).pc = s.pc := rfl
@[simp] theorem State.setI_sp (s : State) (w : Word) : (s.setI w).sp = s.sp := rfl
@[simp] theorem State.setI_stack (s : State) (w : Word) : (s.setI w).stack = s.stack := rfl
@[simp] theorem State.setI_dt (s : State) (w : Word) : (s.setI w).dt = s.dt := rfl
@[simp] theorem State.setI_st (s : State) (w : Word) : (s.setI w).st = s.st := rfl
@[simp] theorem State.setI_mem (s : State) (w : Word) : (s.setI w).mem = s.mem := rfl
@[simp] theorem State.setI_display (s : State) (w : Word) : (s.setI w).display = s.display := rfl
@[simp] theorem State.setI_status (s : State) (w : Word) : (s.setI w).status = s.status := rfl
@[simp] theorem State.setI_keys (s : State) (w : Word) : (s.setI w).keys = s.keys := rfl
@[simp] theorem State.setI_rand (s : State) (w : Word) : (s.setI w).rand = s.rand := rfl
@[simp] theorem State.setI_ticks (s : State) (w : Word) : (s.setI w).ticks = s.ticks := rfl
@[simp] theorem State.setI_draws (s : State) (w : Word) : (s.setI w).draws = s.draws := rfl
@[simp] theorem State.getV_setI (s : State) (w : Word) (r : RegIx) : (s.setI w).getV r = s.getV r := rfl
@[simp] theorem State.memRead_setI (s : State) (w : Word) (p : Nat) : (s.setI w).memRead p = s.memRead p := rfl
@[simp] theorem State.pix_setI (s : State) (w : Word) (c d : Nat) : (s.setI w).pix c d = s.pix c d := rfl
@[simp] theorem State.key_setI (s : State) (w : Word) (k : RegIx) : (s.setI w).key k = s.key k := rfl

/-! ### setPc -/

@[simp] theorem State.setPc_v (s : State) (w : Word) : (s.setPc w).v = s.v := rfl
@[simp] theorem State.setPc_i (s : State) (w : Word) : (s.setPc w).i = s.i := rfl
@[simp] theorem State.setPc_pc (s : State) (w : Word) : (s.setPc w).pc = w := rfl
@[simp] theorem State.setPc_sp (s : State) (w : Word) : (s.setPc w).sp = s.sp := rfl
@[simp] theorem State.setPc_stack (s : State) (w : Word) : (s.setPc w).stack = s.stack := rfl
@[simp] theorem State.setPc_dt (s : State) (w : Word) : (s.setPc w).dt = s.dt := rfl
@[simp] theorem State.setPc_st (s : State) (w : Word) : (s.setPc w).st = s.st := rfl
@[simp] theorem State.setPc_mem (s : State) (w : Word) : (s.setPc w).mem = s.mem := rfl
@[simp] theorem State.setPc_display (s : State) (w : Word) : (s.setPc w).display = s.display := rfl
@[simp] theorem State.setPc_status (s : State) (w : Word) : (s.setPc w).status = s.status := rfl
@[simp] theorem State.setPc_keys (s : State) (w : Word) : (s.setPc w).keys = s.keys := rfl
@[simp] theorem State.setPc_rand (s : State) (w : Word) : (s.setPc w).rand = s.rand := rfl
@[simp] theorem State.setPc_ticks (s : State) (w : Word) : (s.setPc w).ticks = s.ticks := rfl
@[simp] theorem State.setPc_draws (s : State) (w : Word) : (s.setPc w).draws = s.draws := rfl
@[simp] theorem State.getV_setPc (s : State) (w : Word) (r : RegIx) : (s.setPc w).getV r = s.getV r := rfl
@[simp] theorem State.memRead_setPc (s : State) (w : Word) (p : Nat) : (s.setPc w).memRead p = s.memRead p := rfl
@[simp] theorem State.pix_setPc (s : State) (w : Word) (c d : Nat) : (s.setPc w).pix c d = s.pix c d := rfl
@[simp] theorem State.key_setPc (s : State) (w : Word) (k : RegIx) : (s.setPc w).key k = s.key k := rfl

/-! ### setDt -/

@[simp] theorem State.setDt_v (s : State) (b : Byte) : (s.setDt b).v = s.v := rfl
@[simp] theorem State.setDt_i (s : State) (b : Byte) : (s.setDt b).i = s.i := rfl
@[simp] theorem State.setDt_pc (s : State) (b : Byte) : (s.setDt b).pc = s.pc := rfl
@[simp] theorem State.setDt_sp (s : State) (b : Byte) : (s.setDt b).sp = s.sp := rfl
@[simp] theorem State.setDt_stack (s : State) (b : Byte) : (s.setDt b).stack = s.stack := rfl
@[simp] theorem State.setDt_dt (s : State) (b : Byte) : (s.setDt b).dt = b := rfl
@[simp] theorem State.setDt_st (s : State) (b : Byte) : (s.setDt b).st = s.st := rfl
@[simp] theorem State.setDt_mem (s : State) (b : Byte) : (s.setDt b).mem = s.mem := rfl
@[simp] theorem State.setDt_display (s : State) (b : Byte) : (s.setDt b).display = s.display := rfl
@[simp] theorem State.setDt_status (s : State) (b : Byte) : (s.setDt b).status = s.status := rfl
@[simp] theorem State.setDt_keys (s : State) (b : Byte) : (s.setDt b).keys = s.keys := rfl
@[simp] theorem State.setDt_rand (s : State) (b : Byte) : (s.setDt b).rand = s.rand := rfl
@[simp] theorem State.setDt_ticks (s : State) (b : Byte) : (s.setDt b).ticks = s.ticks := rfl
@[simp] theorem State.setDt_draws (s : State) (b : Byte) : (s.setDt b).draws = s.draws := rfl
@[simp] theorem State.getV_setDt (s : State) (b : Byte) (r : RegIx) : (s.setDt b).getV r = s.getV r := rfl
@[simp] theorem State.memRead_setDt (s : State) (b : Byte) (p : Nat) : (s.setDt b).memRead p = s.memRead p := rfl
@[simp] theorem State.pix_setDt (s : State) (b : Byte) (c d : Nat) : (s.setDt b).pix c d = s.pix c d := rfl
@[simp] theorem State.key_setDt (s : State) (b : Byte) (k : RegIx) : (s.setDt b).key k = s.key k := rfl

/-! ### setSt -/

@[simp] theorem State.setSt_v (s : State) (b : Byte) : (s.setSt b).v = s.v := rfl
@[simp] theorem State.setSt_i (s : State) (b : Byte) : (s.setSt b).i = s.i := rfl
@[simp] theorem State.setSt_pc (s : State) (b : Byte) : (s.setSt b).pc = s.pc := rfl
@[simp] theorem State.setSt_sp (s : State) (b : Byte) : (s.setSt b).sp = s.sp := rfl
@[simp] theorem State.setSt_stack (s : State) (b : Byte) : (s.setSt b).stack = s.stack := rfl
@[simp] theorem State.setSt_dt (s : State) (b : Byte) : (s.setSt b).dt = s.dt := rfl
@[simp] theorem State.setSt_st (s : State) (b : Byte) : (s.setSt b).st = b := rfl
@[simp] theorem State.setSt_mem (s : State) (b : Byte) : (s.setSt b).mem = s.mem := rfl
@[simp] theorem State.setSt_display (s : State) (b : Byte) : (s.setSt b).display = s.display := rfl
@[simp] theorem State.setSt_status (s : State) (b : Byte) : (s.setSt b).status = s.status := rfl
@[simp] theorem State.setSt_keys (s : State) (b : Byte) : (s.setSt b).keys = s.keys := rfl
@[simp] theorem State.setSt_rand (s : State) (b : Byte) : (s.setSt b).rand = s.rand := rfl
@[simp] theorem State.setSt_ticks (s : State) (b : Byte) : (s.setSt b).ticks = s.ticks := rfl
@[simp] theorem State.setSt_draws (s : State) (b : Byte) : (s.setSt b).draws = s.draws := rfl
@[simp] theorem State.getV_setSt (s : State) (b : Byte) (r : RegIx) : (s.setSt b).getV r = s.getV r := rfl
@[simp] theorem State.memRead_setSt (s : State) (b : Byte) (p : Nat) : (s.setSt b).memRead p = s.memRead p := rfl
@[simp] theorem State.pix_setSt (s : State) (b : Byte) (c d : Nat) : (s.setSt b).pix c d = s.pix c d := rfl
@[simp] theorem State.key_setSt (s : State) (b : Byte) (k : RegIx) : (s.setSt b).key k = s.key k := rfl

/-! ### setStatus -/

@[simp] theorem State.setStatus_v (s : State) (u : Status) : (s.setStatus u).v = s.v := rfl
@[simp] theorem State.setStatus_i (s : State) (u : Status) : (s.setStatus u).i = s.i := rfl
@[simp] theorem State.setStatus_pc (s : State) (u : Status) : (s.setStatus u).pc = s.pc := rfl
@[simp] theorem State.setStatus_sp (s : State) (u : Status) : (s.setStatus u).sp = s.sp := rfl
@[simp] theorem State.setStatus_stack (s : State) (u : Status) : (s.setStatus u).stack = s.stack := rfl
@[simp] theorem State.setStatus_dt (s : State) (u : Status) : (s.setStatus u).dt = s.dt := rfl
@[simp] theorem State.setStatus_st (s : State) (u : Status) : (s.setStatus u).st = s.st := rfl
@[simp] theorem State.setStatus_mem (s : State) (u : Status) : (s.setStatus u).mem = s.mem := rfl
@[simp] theorem State.setStatus_display (s : State) (u : Status) : (s.setStatus u).display = s.display := rfl
@[simp] theorem State.setStatus_status (s : State) (u : Status) : (s.setStatus u).status = u := rfl
@[simp] theorem State.setStatus_keys (s : State) (u : Status) : (s.setStatus u).keys = s.keys := rfl
@[simp] theorem State.setStatus_rand (s : State) (u : Status) : (s.setStatus u).rand = s.rand := rfl
@[simp] theorem State.setStatus_ticks (s : State) (u : Status) : (s.setStatus u).ticks = s.ticks := rfl
@[simp] theorem State.setStatus_draws (s : State) (u : Status) : (s.setStatus u).draws = s.draws := rfl
@[simp] theorem State.getV_setStatus (s : State) (u : Status) (r : RegIx) : (s.setStatus u).getV r = s.getV r := rfl
@[simp] theorem State.memRead_setStatus (s : State) (u : Status) (p : Nat) : (s.setStatus u).memRead p = s.memRead p := rfl
@[simp] theorem State.pix_setStatus (s : State) (u : Status) (c d : Nat) : (s.setStatus u).pix c d = s.pix c d := rfl
@[simp] theorem State.key_setStatus (s : State) (u : Status) (k : RegIx) : (s.setStatus u).key k = s.key k := rfl

/-! ### memWrite -/

@[simp] theorem State.memWrite_v (s : State) (a : Nat) (b : Byte) : (s.memWrite a b).v = s.v := rfl
@[simp] theorem State.memWrite_i (s : State) (a : Nat) (b : Byte) : (s.memWrite a b).i = s.i := rfl
@[simp] theorem State.memWrite_pc (s : State) (a : Nat) (b : Byte) : (s.memWrite a b).pc = s.pc := rfl
@[simp] theorem State.memWrite_sp (s : State) (a : Nat) (b : Byte) : (s.memWrite a b).sp = s.sp := rfl
@[simp] theorem State.memWrite_stack (s : State) (a : Nat) (b : Byte) : (s.memWrite a b).stack = s.stack := rfl
@[simp] theorem State.memWrite_dt (s : State) (a : Nat) (b : Byte) : (s.memWrite a b).dt = s.dt := rfl
@[simp] theorem State.memWrite_st (s : State) (a : Nat) (b : Byte) : (s.memWrite a b).st = s.st := rfl
@[simp] theorem State.memWrite_mem (s : State) (a : Nat) (b : Byte) : (s.memWrite a b).mem = s.mem.write a b := rfl
@[simp] theorem State.memWrite_display (s : State) (a : Nat) (b : Byte) : (s.memWrite a b).display = s.display := rfl
@[simp] theorem State.memWrite_status (s : State) (a : Nat) (b : Byte) : (s.memWrite a b).status = s.status := rfl
@[simp] theorem State.memWrite_keys (s : State) (a : Nat) (b : Byte) : (s.memWrite a b).keys = s.keys := rfl
@[simp] theorem State.memWrite_rand (s : State) (a : Nat) (b : Byte) : (s.memWrite a b).rand = s.rand := rfl
@[simp] theorem State.memWrite_ticks (s : State) (a : Nat) (b : Byte) : (s.memWrite a b).ticks = s.ticks := rfl
@[simp] theorem State.memWrite_draws (s : State) (a : Nat) (b : Byte) : (s.memWrite a b).draws = s.draws := rfl
@[simp] theorem State.getV_memWrite (s : State) (a : Nat) (b : Byte) (r : RegIx) : (s.memWrite a b).getV r = s.getV r := rfl
@[simp] theorem State.pix_memWrite (s : State) (a : Nat) (b : Byte) (c d : Nat) : (s.memWrite a b).pix c d = s.pix c d := rfl
@[simp] theorem State.key_memWrite (s : State) (a : Nat) (b : Byte) (k : RegIx) : (s.memWrite a b).key k = s.key k := rfl

/-! ### advance -/

@[simp] theorem State.advance_v (s : State) : (s.advance).v = s.v := rfl
@[simp] theorem State.advance_i (s : State) : (s.advance).i = s.i := rfl
@[simp] theorem State.advance_pc (s : State) : (s.advance).pc = s.pc + 2#16 := rfl
@[simp] theorem State.advance_sp (s : State) : (s.advance).sp = s.sp := rfl
@[simp] theorem State.advance_stack (s : State) : (s.advance).stack = s.stack := rfl
@[simp] theorem State.advance_dt (s : State) : (s.advance).dt = s.dt := rfl
@[simp] theorem State.advance_st (s : State) : (s.advance).st = s.st := rfl
@[simp] theorem State.advance_mem (s : State) : (s.advance).mem = s.mem := rfl
@[simp] theorem State.advance_display (s : State) : (s.advance).display = s.display := rfl
@[simp] theorem State.advance_status (s : State) : (s.advance).status = s.status := rfl
@[simp] theorem State.advance_keys (s : State) : (s.advance).keys = s.keys := rfl
@[simp] theorem State.advance_rand (s : State) : (s.advance).rand = s.rand := rfl
@[simp] theorem State.advance_ticks (s : State) : (s.advance).ticks = s.ticks := rfl
@[simp] theorem State.advance_draws (s : State) : (s.advance).draws = s.draws := rfl
@[simp] theorem State.getV_advance (s : State) (r : RegIx) : (s.advance).getV r = s.getV r := rfl
@[simp] theorem State.memRead_advance (s : State) (p : Nat) : (s.advance).memRead p = s.memRead p := rfl
@[simp] theorem State.pix_advance (s : State) (c d : Nat) : (s.advance).pix c d = s.pix c d := rfl
@[simp] theorem State.key_advance (s : State) (k : RegIx) : (s.advance).key k = s.key k := rfl

/-! ### skip -/

@[simp] theorem State.skip_v (s : State) : (s.skip).v = s.v := rfl
@[simp] theorem State.skip_i (s : State) : (s.skip).i = s.i := rfl
@[simp] theorem State.skip_pc (s : State) : (s.skip).pc = s.pc + 2#16 := rfl
@[simp] theorem State.skip_sp (s : State) : (s.skip).sp = s.sp := rfl
@[simp] theorem State.skip_stack (s : State) : (s.skip).stack = s.stack := rfl
@[simp] theorem State.skip_dt (s : State) : (s.skip).dt = s.dt := rfl
@[simp] theorem State.skip_st (s : State) : (s.skip).st = s.st := rfl
@[simp] theorem State.skip_mem (s : State) : (s.skip).mem = s.mem := rfl
@[simp] theorem State.skip_display (s : State) : (s.skip).display = s.display := rfl
@[simp] theorem State.skip_status (s : State) : (s.skip).status = s.status := rfl
@[simp] theorem State.skip_keys (s : State) : (s.skip).keys = s.keys := rfl
@[simp] theorem State.skip_rand (s : State) : (s.skip).rand = s.rand := rfl
@[simp] theorem State.skip_ticks (s : State) : (s.skip).ticks = s.ticks := rfl
@[simp] theorem State.skip_draws (s : State) : (s.skip).draws = s.draws := rfl
@[simp] theorem State.getV_skip (s : State) (r : RegIx) : (s.skip).getV r = s.getV r := rfl
@[simp] theorem State.memRead_skip (s : State) (p : Nat) : (s.skip).memRead p = s.memRead p := rfl
@[simp] theorem State.pix_skip (s : State) (c d : Nat) : (s.skip).pix c d = s.pix c d := rfl
@[simp] theorem State.key_skip (s : State) (k : RegIx) : (s.skip).key k = s.key k := rfl

/-! ### clearDisplay -/

@[simp] theorem State.clearDisplay_v (s : State) : (s.clearDisplay).v = s.v := rfl
@[simp] theorem State.clearDisplay_i (s : State) : (s.clearDisplay).i = s.i := rfl
@[simp] theorem State.clearDisplay_pc (s : State) : (s.clearDisplay).pc = s.pc := rfl
@[simp] theorem State.clearDisplay_sp (s : State) : (s.clearDisplay).sp = s.sp := rfl
@[simp] theorem State.clearDisplay_stack (s : State) : (s.clearDisplay).stack = s.stack := rfl
@[simp] theorem State.clearDisplay_dt (s : State) : (s.clearDisplay).dt = s.dt := rfl
@[simp] theorem State.clearDisplay_st (s : State) : (s.clearDisplay).st = s.st := rfl
@[simp] theorem State.clearDisplay_mem (s : State) : (s.clearDisplay).mem = s.mem := rfl
@[simp] theorem State.clearDisplay_display (s : State) : (s.clearDisplay).display = Vector.replicate 32 (Vector.replicate 64 false) := rfl
@[simp] theorem State.clearDisplay_status (s : State) : (s.clearDisplay).status = s.status := rfl
@[simp] theorem State.clearDisplay_keys (s : State) : (s.clearDisplay).keys = s.keys := rfl
@[simp] theorem State.clearDisplay_rand (s : State) : (s.clearDisplay).rand = s.rand := rfl
@[simp] theorem State.clearDisplay_ticks (s : State) : (s.clearDisplay).ticks = s.ticks := rfl
@[simp] theorem State.clearDisplay_draws (s : State) : (s.clearDisplay).draws = s.draws := rfl
@[simp] theorem State.getV_clearDisplay (s : State) (r : RegIx) : (s.clearDisplay).getV r = s.getV r := rfl
@[simp] theorem State.memRead_clearDisplay (s : State) (p : Nat) : (s.clearDisplay).memRead p = s.memRead p := rfl
@[simp] theorem State.key_clearDisplay (s : State) (k : RegIx) : (s.clearDisplay).key k = s.key k := rfl

/-! ### tick -/

@[simp] theorem State.tick_v (s : State) : (s.tick).v = s.v := rfl
@[simp] theorem State.tick_i (s : State) : (s.tick).i = s.i := rfl
@[simp] theorem State.tick_pc (s : State) : (s.tick).pc = s.pc := rfl
@[simp] theorem State.tick_sp (s : State) : (s.tick).sp = s.sp := rfl
@[simp] theorem State.tick_stack (s : State) : (s.tick).stack = s.stack := rfl
@[simp] theorem State.tick_dt (s : State) : (s.tick).dt = decrement s.dt := rfl
@[simp] theorem State.tick_st (s : State) : (s.tick).st = decrement s.st := rfl
@[simp] theorem State.tick_mem (s : State) : (s.tick).mem = s.mem := rfl
@[simp] theorem State.tick_display (s : State) : (s.tick).display = s.display := rfl
@[simp] theorem State.tick_status (s : State) : (s.tick).status = s.status := rfl
@[simp] theorem State.tick_keys (s : State) : (s.tick).keys = s.keys := rfl
@[simp] theorem State.tick_rand (s : State) : (s.tick).rand = s.rand := rfl
@[simp] theorem State.tick_ticks (s : State) : (s.tick).ticks = s.ticks := rfl
@[simp] theorem State.tick_draws (s : State) : (s.tick).draws = s.draws := rfl
@[simp] theorem State.getV_tick (s : State) (r : RegIx) : (s.tick).getV r = s.getV r := rfl
@[simp] theorem State.memRead_tick (s : State) (p : Nat) : (s.tick).memRead p = s.memRead p := rfl
@[simp] theorem State.pix_tick (s : State) (c d : Nat) : (s.tick).pix c d = s.pix c d := rfl
@[simp] theorem State.key_tick (s : State) (k : RegIx) : (s.tick).key k = s.key k := rfl

/-! ### drawInputs -/

@[simp] theorem State.drawInputs_v (s : State) : (s.drawInputs).v = s.v := rfl
@[simp] theorem State.drawInputs_i (s : State) : (s.drawInputs).i = s.i := rfl
@[simp] theorem State.drawInputs_pc (s : State) : (s.drawInputs).pc = s.pc := rfl
@[simp] theorem State.drawInputs_sp (s : State) : (s.drawInputs).sp = s.sp := rfl
@[simp] theorem State.drawInputs_stack (s : State) : (s.drawInputs).stack = s.stack := rfl
@[simp] theorem State.drawInputs_dt (s : State) : (s.drawInputs).dt = s.dt := rfl
@[simp] theorem State.drawInputs_st (s : State) : (s.drawInputs).st = s.st := rfl
@[simp] theorem State.drawInputs_mem (s : State) : (s.drawInputs).mem = s.mem := rfl
@[simp] theorem State.drawInputs_display (s : State) : (s.drawInputs).display = s.display := rfl
@[simp] theorem State.drawInputs_status (s : State) : (s.drawInputs).status = s.status := rfl
@[simp] theorem State.drawInputs_keys (s : State) : (s.drawInputs).keys = Config.freeKeys s.draws := rfl
@[simp] theorem State.drawInputs_rand (s : State) : (s.drawInputs).rand = Config.freeRand s.draws := rfl
@[simp] theorem State.drawInputs_ticks (s : State) : (s.drawInputs).ticks = Config.freeTicks s.draws := rfl
@[simp] theorem State.drawInputs_draws (s : State) : (s.drawInputs).draws = s.draws + 1 := rfl
@[simp] theorem State.getV_drawInputs (s : State) (r : RegIx) : (s.drawInputs).getV r = s.getV r := rfl
@[simp] theorem State.memRead_drawInputs (s : State) (p : Nat) : (s.drawInputs).memRead p = s.memRead p := rfl
@[simp] theorem State.pix_drawInputs (s : State) (c d : Nat) : (s.drawInputs).pix c d = s.pix c d := rfl

/-! ### loadFonts -/

@[simp] theorem State.loadFonts_v (s : State) (f : Vector Byte 80) : (s.loadFonts f).v = s.v := rfl
@[simp] theorem State.loadFonts_i (s : State) (f : Vector Byte 80) : (s.loadFonts f).i = s.i := rfl
@[simp] theorem State.loadFonts_pc (s : State) (f : Vector Byte 80) : (s.loadFonts f).pc = s.pc := rfl
@[simp] theorem State.loadFonts_sp (s : State) (f : Vector Byte 80) : (s.loadFonts f).sp = s.sp := rfl
@[simp] theorem State.loadFonts_stack (s : State) (f : Vector Byte 80) : (s.loadFonts f).stack = s.stack := rfl
@[simp] theorem State.loadFonts_dt (s : State) (f : Vector Byte 80) : (s.loadFonts f).dt = s.dt := rfl
@[simp] theorem State.loadFonts_st (s : State) (f : Vector Byte 80) : (s.loadFonts f).st = s.st := rfl
@[simp] theorem State.loadFonts_mem (s : State) (f : Vector Byte 80) : (s.loadFonts f).mem = s.mem.writeList Config.fontBase f.toList := rfl
@[simp] theorem State.loadFonts_display (s : State) (f : Vector Byte 80) : (s.loadFonts f).display = s.display := rfl
@[simp] theorem State.loadFonts_status (s : State) (f : Vector Byte 80) : (s.loadFonts f).status = s.status := rfl
@[simp] theorem State.loadFonts_keys (s : State) (f : Vector Byte 80) : (s.loadFonts f).keys = s.keys := rfl
@[simp] theorem State.loadFonts_rand (s : State) (f : Vector Byte 80) : (s.loadFonts f).rand = s.rand := rfl
@[simp] theorem State.loadFonts_ticks (s : State) (f : Vector Byte 80) : (s.loadFonts f).ticks = s.ticks := rfl
@[simp] theorem State.loadFonts_draws (s : State) (f : Vector Byte 80) : (s.loadFonts f).draws = s.draws := rfl
@[simp] theorem State.getV_loadFonts (s : State) (f : Vector Byte 80) (r : RegIx) : (s.loadFonts f).getV r = s.getV r := rfl
@[simp] theorem State.pix_loadFonts (s : State) (f : Vector Byte 80) (c d : Nat) : (s.loadFonts f).pix c d = s.pix c d := rfl
@[simp] theorem State.key_loadFonts (s : State) (f : Vector Byte 80) (k : RegIx) : (s.loadFonts f).key k = s.key k := rfl

/-! ### placeWord -/

@[simp] theorem State.placeWord_v (s : State) (w : Word) : (s.placeWord w).v = s.v := rfl
@[simp] theorem State.placeWord_i (s : State) (w : Word) : (s.placeWord w).i = s.i := rfl
@[simp] theorem State.placeWord_pc (s : State) (w : Word) : (s.placeWord w).pc = s.pc := rfl
@[simp] theorem State.placeWord_sp (s : State) (w : Word) : (s.placeWord w).sp = s.sp := rfl
@[simp] theorem State.placeWord_stack (s : State) (w : Word) : (s.placeWord w).stack = s.stack := rfl
@[simp] theorem State.placeWord_dt (s : State) (w : Word) : (s.placeWord w).dt = s.dt := rfl
@[simp] theorem State.placeWord_st (s : State) (w : Word) : (s.placeWord w).st = s.st := rfl
@[simp] theorem State.placeWord_mem (s : State) (w : Word) : (s.placeWord w).mem = s.mem.writeList s.pc.toNat (wordBytes w) := rfl
@[simp] theorem State.placeWord_display (s : State) (w : Word) : (s.placeWord w).display = s.display := rfl
@[simp] theorem State.placeWord_status (s : State) (w : Word) : (s.placeWord w).status = s.status := rfl
@[simp] theorem State.placeWord_keys (s : State) (w : Word) : (s.placeWord w).keys = s.keys := rfl
@[simp] theorem State.placeWord_rand (s : State) (w : Word) : (s.placeWord w).rand = s.rand := rfl
@[simp] theorem State.placeWord_ticks (s : State) (w : Word) : (s.placeWord w).ticks = s.ticks := rfl
@[simp] theorem State.placeWord_draws (s : State) (w : Word) : (s.placeWord w).draws = s.draws := rfl
@[simp] theorem State.getV_placeWord (s : State) (w : Word) (r : RegIx) : (s.placeWord w).getV r = s.getV r := rfl
@[simp] theorem State.pix_placeWord (s : State) (w : Word) (c d : Nat) : (s.placeWord w).pix c d = s.pix c d := rfl
@[simp] theorem State.key_placeWord (s : State) (w : Word) (k : RegIx) : (s.placeWord w).key k = s.key k := rfl

end Sys2Proof.Machine
end

