-- ==== Sys2Proof/Laws/Memory.lean ====
section
/-! SUPPORT. Memory: a read after a write, that every memory operation keeps the canonical form, and what the bounds check
finds (20_memory.md R70, R73, R74, R76). -/

namespace Sys2Proof.Machine

theorem Memory.wf_nil : Memory.wf [] := ⟨by simp, List.Pairwise.nil⟩

theorem Memory.read_cons (k : Nat) (b : Byte) (m : Memory) (a : Nat) :
    Memory.read ((k, b) :: m) a = if k = a then b else Memory.read m a := rfl

/-- An address below every listed one reads as unlisted. -/
theorem Memory.read_of_lt (m : Memory) (a : Nat) (h : ∀ c ∈ m, a < c.1) : m.read a = 0x00#8 := by
  induction m with
  | nil => rfl
  | cons c m ih =>
    have hc := h c (by simp)
    rw [Memory.read_cons, if_neg (by omega)]
    exact ih fun d hd => h d (by simp [hd])

/-- A write leaves every other address alone, in every memory. -/
theorem Memory.read_write_ne (m : Memory) (a p : Nat) (b : Byte) (h : p ≠ a) : (m.write a b).read p = m.read p := by
  induction m with
  | nil => unfold Memory.write; split <;> simp [Memory.read, Ne.symm h]
  | cons c m ih =>
    obtain ⟨k, d⟩ := c
    unfold Memory.write
    split
    · split <;> simp [Memory.read, Ne.symm h]
    · split
      · subst_vars; split <;> simp [Memory.read, Ne.symm h]
      · simp [Memory.read, ih]

/-- A read after a write to the same address gives the byte written. -/
theorem Memory.read_write_same (m : Memory) (hm : m.wf) (a : Nat) (b : Byte) : (m.write a b).read a = b := by
  induction m with
  | nil => unfold Memory.write; split <;> simp_all [Memory.read]
  | cons c m ih =>
    obtain ⟨k, d⟩ := c
    have hs := List.pairwise_cons.1 hm.2
    have hm' : Memory.wf m := ⟨fun c hc => hm.1 c (by simp [hc]), hs.2⟩
    unfold Memory.write
    split
    · split
      · rw [Memory.read_of_lt _ _ fun c hc => by
          rcases List.mem_cons.1 hc with rfl | hc
          · assumption
          · have := hs.1 c hc; simp only at this; omega]
        simp_all
      · simp [Memory.read]
    · split
      · split
        · subst_vars
          rw [Memory.read_of_lt _ _ fun c hc => hs.1 c hc]
        · simp [Memory.read]
      · simp only [Memory.read]
        rw [if_neg (by omega)]
        exact ih hm'

theorem Memory.read_write (m : Memory) (hm : m.wf) (a p : Nat) (b : Byte) :
    (m.write a b).read p = if p = a then b else m.read p := by
  split
  · subst_vars; exact Memory.read_write_same m hm _ b
  · exact Memory.read_write_ne m a p b ‹_›

/-- Every cell of a written memory is an old one or the one written. -/
theorem Memory.mem_write (m : Memory) (a : Nat) (b : Byte) (c : Host.Cell) (h : c ∈ m.write a b) :
    c ∈ m ∨ (c = (a, b) ∧ b ≠ 0x00#8) := by
  induction m with
  | nil => unfold Memory.write at h; split at h <;> simp_all
  | cons d m ih =>
    obtain ⟨k, e⟩ := d
    unfold Memory.write at h
    split at h
    · split at h
      · exact .inl h
      · rcases List.mem_cons.1 h with h | h
        · exact .inr ⟨h, ‹_›⟩
        · exact .inl h
    · split at h
      · split at h
        · exact .inl (by simp [h])
        · rcases List.mem_cons.1 h with h | h
          · exact .inr ⟨h, ‹_›⟩
          · exact .inl (by simp [h])
      · rcases List.mem_cons.1 h with h | h
        · exact .inl (by simp [h])
        · rcases ih h with h | h
          · exact .inl (by simp [h])
          · exact .inr h

/-- A write to an address that exists keeps the canonical form. -/
theorem Memory.wf_write (m : Memory) (hm : m.wf) (a : Nat) (b : Byte) (ha : a ≤ 0xFFF) : (m.write a b).wf := by
  refine ⟨fun c hc => ?_, ?_⟩
  · rcases Memory.mem_write m a b c hc with h | ⟨rfl, h⟩
    · exact hm.1 c h
    · exact ⟨ha, h⟩
  · have hp := hm.2
    clear hm ha
    induction m with
    | nil => unfold Memory.write; split <;> simp
    | cons d m ih =>
      obtain ⟨k, e⟩ := d
      have hs := List.pairwise_cons.1 hp
      unfold Memory.write
      split
      · split
        · exact hp
        · refine List.pairwise_cons.2 ⟨fun c hc => ?_, hp⟩
          rcases List.mem_cons.1 hc with rfl | hc
          · assumption
          · have := hs.1 c hc; simp only at this ⊢; omega
      · split
        · subst_vars
          split
          · exact hs.2
          · exact List.pairwise_cons.2 ⟨fun c hc => hs.1 c hc, hs.2⟩
        · refine List.pairwise_cons.2 ⟨fun c hc => ?_, ih hs.2⟩
          rcases Memory.mem_write m a b c hc with h | ⟨rfl, -⟩
          · exact hs.1 c h
          · simp only; omega

/-- A list of bytes stored where every address exists keeps the canonical form. -/
theorem Memory.wf_writeList (bs : List Byte) (m : Memory) (hm : m.wf) (a : Nat) (ha : a + bs.length ≤ 4096) :
    (m.writeList a bs).wf := by
  induction bs generalizing m a with
  | nil => exact hm
  | cons b bs ih =>
    simp only [List.length_cons] at ha
    exact ih _ (Memory.wf_write m hm a b (by omega)) (a + 1) (by omega)

/-- Storing a list leaves every address outside it alone, in every memory. -/
theorem Memory.read_writeList_outside (bs : List Byte) (m : Memory) (a p : Nat) (h : p < a ∨ a + bs.length ≤ p) :
    (m.writeList a bs).read p = m.read p := by
  induction bs generalizing m a with
  | nil => rfl
  | cons b bs ih =>
    simp only [List.length_cons] at h
    rw [Memory.writeList, ih _ _ (by omega), Memory.read_write_ne _ _ _ _ (by omega)]

/-- The bytes stored are read back in order. -/
theorem Memory.read_writeList (bs : List Byte) (m : Memory) (hm : m.wf) (a k : Nat) (ha : a + bs.length ≤ 4096)
    (hk : k < bs.length) : (m.writeList a bs).read (a + k) = bs[k] := by
  induction bs generalizing m a k with
  | nil => simp at hk
  | cons b bs ih =>
    simp only [List.length_cons] at ha hk
    have hw := Memory.wf_write m hm a b (by omega)
    rw [Memory.writeList]
    cases k with
    | zero =>
      rw [Memory.read_writeList_outside _ _ _ _ (by omega)]
      simpa using Memory.read_write_same m hm a b
    | succ k =>
      have := ih (m.write a b) hw (a + 1) k (by omega) (by omega)
      rw [show a + (k + 1) = a + 1 + k by omega, this]
      simp

/-- The bounds check passes exactly where every address of the block exists. -/
theorem firstOutside_none (base n : Nat) : firstOutside base n = none ↔ n = 0 ∨ base + n ≤ 4096 := by
  simp only [firstOutside, List.find?_eq_none, List.mem_map, List.mem_range, decide_eq_true_eq]
  constructor
  · intro h
    by_cases h0 : n = 0
    · exact .inl h0
    · have := h (base + (n - 1)) ⟨n - 1, by omega, rfl⟩
      omega
  · rintro h _ ⟨k, hk, rfl⟩
    omega

/-- Where the check fails it names the lowest failing address. -/
theorem firstOutside_some (base n a : Nat) :
    firstOutside base n = some a ↔ n ≠ 0 ∧ 4096 < base + n ∧ a = (if 0xFFF < base then base else 0x1000) := by
  constructor
  · intro h
    have hn : firstOutside base n ≠ none := by simp [h]
    rw [Ne, firstOutside_none] at hn
    refine ⟨by omega, by omega, ?_⟩
    simp only [firstOutside, List.find?_map, Option.map_eq_some_iff, List.find?_range_eq_some] at h
    obtain ⟨k, ⟨h1, h2, h3⟩, rfl⟩ := h
    simp only [Function.comp, decide_eq_true_eq, Bool.not_eq_true', decide_eq_false_iff_not] at h1 h3
    by_cases hk : k = 0
    · subst hk; rw [if_pos (by omega)]; omega
    · have := h3 (k - 1) (by omega)
      rw [if_neg (by omega)]; omega
  · rintro ⟨h1, h2, rfl⟩
    simp only [firstOutside, List.find?_map, Option.map_eq_some_iff, List.find?_range_eq_some]
    refine ⟨if 0xFFF < base then 0 else 0x1000 - base, ⟨?_, ?_, ?_⟩, ?_⟩
    · simp only [Function.comp, decide_eq_true_eq]; split <;> omega
    · simp only [List.mem_range]; split <;> omega
    · intro j hj
      simp only [Function.comp, Bool.not_eq_true', decide_eq_false_iff_not]
      split at hj <;> omega
    · split <;> omega

end Sys2Proof.Machine
end

