-- ==== Sys2Proof/Laws/Ops.lean ====
section
/-! SUPPORT. One lemma per shared operation of Machine/Ops.lean that says what it can do: register file, display, stack, fault
entry, the bounds check, ticks, the key poll, the fetch. -/

namespace Sys2Proof.Machine

/-! ### The register file (10_state.md R30, R31) -/

/-- A register read after a write: the byte written, or what it held. -/
theorem State.getV_setV (s : State) (x r : RegIx) (b : Byte) : (s.setV x b).getV r = if r = x then b else s.getV r := by
  simp only [State.getV, State.setV_v, Vector.getElem_set]
  by_cases h : r = x
  · simp [h]
  · have : x.toNat ≠ r.toNat := fun e => h (BitVec.eq_of_toNat_eq e).symm
    simp [h, this]

@[simp] theorem State.getV_setV_same (s : State) (x : RegIx) (b : Byte) : (s.setV x b).getV x = b := by
  simp [State.getV_setV]

theorem State.getV_setV_ne (s : State) (x r : RegIx) (b : Byte) (h : r ≠ x) : (s.setV x b).getV r = s.getV r := by
  simp [State.getV_setV, h]

theorem State.getV_setVF (s : State) (r : RegIx) (b : Byte) : (s.setVF b).getV r = if r = 0xF#4 then b else s.getV r :=
  State.getV_setV s _ r b

@[simp] theorem State.getVF_setVF (s : State) (b : Byte) : (s.setVF b).getVF = b := State.getV_setV_same s _ b

/-- A byte of memory read after a write, from a memory in canonical form. -/
theorem State.memRead_memWrite (s : State) (hs : s.mem.wf) (a p : Nat) (b : Byte) :
    (s.memWrite a b).memRead p = if p = a then b else s.memRead p :=
  Memory.read_write s.mem hs a p b

theorem State.memRead_memWrite_ne (s : State) (a p : Nat) (b : Byte) (h : p ≠ a) :
    (s.memWrite a b).memRead p = s.memRead p :=
  Memory.read_write_ne s.mem a p b h

/-! ### The display (10_state.md R40) -/

/-- A pixel read after a write. -/
theorem State.pix_setPix (s : State) (x y c d : Nat) (b : Bool) :
    (s.setPix x y b).pix c d = if c = x ∧ d = y ∧ x < 64 ∧ y < 32 then b else s.pix c d := by
  unfold State.setPix
  by_cases h : x < 64 ∧ y < 32
  · rw [dif_pos h]
    simp only [State.pix, h, and_self, and_true]
    by_cases hc : c < 64 ∧ d < 32
    · rw [dif_pos hc, dif_pos hc]
      by_cases hd : y = d
      · subst hd
        by_cases hx : x = c
        · subst hx; simp
        · simp [hx, Ne.symm hx]
      · simp [hd, Ne.symm hd]
    · rw [dif_neg hc, dif_neg hc, if_neg (by omega)]
  · rw [dif_neg h, if_neg (by omega)]

/-- A pixel write changes the display alone. -/
theorem State.setPix_eq (s : State) (x y : Nat) (b : Bool) : s.setPix x y b = { s with display := (s.setPix x y b).display } := by
  unfold State.setPix; split <;> rfl

@[simp] theorem State.pix_clearDisplay (s : State) (c d : Nat) : s.clearDisplay.pix c d = false := by
  simp [State.pix]

@[simp] theorem State.pix_outside (s : State) (c d : Nat) (h : ¬ (c < 64 ∧ d < 32)) : s.pix c d = false := by
  unfold State.pix; exact dif_neg h

/-! ### The call stack (10_state.md R37) -/

/-- A push answers a state exactly where SP is below 16; it writes one slot and raises SP by one. -/
theorem State.push_eq_some (s t : State) (w : Word) (h : s.push w = some t) :
    ∃ _ : s.sp.val < 16, t = { s with stack := s.stack.set s.sp.val w, sp := ⟨s.sp.val + 1, by omega⟩ } := by
  unfold State.push at h
  split at h
  · exact ⟨‹_›, (Option.some.inj h).symm⟩
  · cases h

theorem State.push_eq_none (s : State) (w : Word) : s.push w = none ↔ s.sp.val = 16 := by
  have := s.sp.isLt
  unfold State.push
  split
  · rename_i h; simp only [Config.stackDepth] at h; simp; omega
  · rename_i h; simp only [Config.stackDepth] at h; simp; omega

/-- A pop answers a word exactly where SP is above 0; it lowers SP by one and clears nothing. -/
theorem State.pop_eq_some (s t : State) (w : Word) (h : s.pop = some (w, t)) :
    ∃ (_ : 0 < s.sp.val) (_ : s.sp.val - 1 < 16),
      w = s.stack[s.sp.val - 1] ∧ t = { s with sp := ⟨s.sp.val - 1, by omega⟩ } := by
  unfold State.pop at h
  split at h
  · rename_i hs
    obtain ⟨rfl, rfl⟩ := Prod.mk.inj (Option.some.inj h)
    exact ⟨hs, by have := s.sp.isLt; omega, rfl, rfl⟩
  · cases h

theorem State.pop_eq_none (s : State) : s.pop = none ↔ s.sp.val = 0 := by
  unfold State.pop
  split <;> simp <;> omega

/-! ### Fault entry and the bounds check (60_exceptions.md R264; 20_memory.md R76) -/

/-- Fault entry answers the state it was given with the status `Faulted`. -/
theorem raise_eq_next (f : FaultInfo) (s t : State) : raise f s = .next t ↔ t = { s with status := .faulted f } := by
  simp [raise, State.setStatus, eq_comm]

/-- A block instruction answers its effect where every address exists, and otherwise the fault of the lowest that does
not. -/
theorem checkedBlock_eq (s : State) (w : Word) (n : Nat) (done : State) :
    checkedBlock s w n done =
      if n = 0 ∨ s.i.toNat + n ≤ 4096 then .next done
      else .next { s with status := .faulted (.memoryAccessViolation s.pc (some w)
        (if 0xFFF < s.i.toNat then s.i.toNat else 0x1000)) } := by
  unfold checkedBlock
  cases h : firstOutside s.i.toNat n with
  | some a =>
    obtain ⟨h1, h2, rfl⟩ := (firstOutside_some _ _ _).1 h
    exact (if_neg (by omega)).symm
  | none => exact (if_pos ((firstOutside_none _ _).1 h)).symm

/-- What a block instruction can answer. -/
theorem checkedBlock_eq_next (s t : State) (w : Word) (n : Nat) (done : State) (h : checkedBlock s w n done = .next t) :
    ((n = 0 ∨ s.i.toNat + n ≤ 4096) ∧ t = done) ∨
    (4096 < s.i.toNat + n ∧ t = { s with status := .faulted (.memoryAccessViolation s.pc (some w)
        (if 0xFFF < s.i.toNat then s.i.toNat else 0x1000)) }) := by
  rw [checkedBlock_eq] at h
  split at h
  · exact .inl ⟨‹_›, by simpa using h.symm⟩
  · exact .inr ⟨by omega, by simpa using h.symm⟩

/-! ### The fetch (40_fetch_and_step.md R131, R133) -/

/-- The word at PC where both its bytes exist, else the fault of the lowest address that does not. -/
theorem State.fetch_eq (s : State) :
    s.fetch = if s.pc.toNat + 1 ≤ 0xFFF then .ok (s.memRead s.pc.toNat ++ s.memRead (s.pc.toNat + 1))
      else .error (.memoryAccessViolation s.pc none (if 0xFFF < s.pc.toNat then s.pc.toNat else 0x1000)) := by
  unfold State.fetch
  cases h : firstOutside s.pc.toNat 2 with
  | some a =>
    obtain ⟨-, h2, rfl⟩ := (firstOutside_some _ _ _).1 h
    exact (if_neg (by omega)).symm
  | none => exact (if_pos (by have := (firstOutside_none _ _).1 h; omega)).symm

/-! ### Timers and keys (45_timers_keys_random.md R246, R250) -/

theorem decrement_toNat (b : Byte) : (decrement b).toNat = b.toNat - 1 := by
  unfold decrement
  split
  · subst_vars; rfl
  · rename_i h
    have : b.toNat ≠ 0 := fun e => h (BitVec.eq_of_toNat_eq e)
    have := b.isLt
    rw [BitVec.toNat_sub]
    simp
    omega

/-- Ticks change the two timers alone. -/
theorem State.tickMany_eq (n : Nat) (s : State) :
    State.tickMany n s = { s with dt := (State.tickMany n s).dt, st := (State.tickMany n s).st } := by
  induction n with
  | zero => rfl
  | succ n ih => simp only [State.tickMany, State.tick]; rw [ih]

/-- The ticks before a step change the two timers and use up the pending ticks. -/
theorem State.takeTicks_eq (s : State) :
    s.takeTicks = { s with dt := s.takeTicks.dt, st := s.takeTicks.st, ticks := 0 } := by
  simp only [State.takeTicks]
  rw [State.tickMany_eq]

@[simp] theorem State.takeTicks_status (s : State) : s.takeTicks.status = s.status := by rw [State.takeTicks_eq]
@[simp] theorem State.takeTicks_pc (s : State) : s.takeTicks.pc = s.pc := by rw [State.takeTicks_eq]
@[simp] theorem State.takeTicks_mem (s : State) : s.takeTicks.mem = s.mem := by rw [State.takeTicks_eq]
@[simp] theorem State.takeTicks_v (s : State) : s.takeTicks.v = s.v := by rw [State.takeTicks_eq]
@[simp] theorem State.takeTicks_i (s : State) : s.takeTicks.i = s.i := by rw [State.takeTicks_eq]
@[simp] theorem State.takeTicks_sp (s : State) : s.takeTicks.sp = s.sp := by rw [State.takeTicks_eq]
@[simp] theorem State.takeTicks_stack (s : State) : s.takeTicks.stack = s.stack := by rw [State.takeTicks_eq]
@[simp] theorem State.takeTicks_display (s : State) : s.takeTicks.display = s.display := by rw [State.takeTicks_eq]
@[simp] theorem State.takeTicks_keys (s : State) : s.takeTicks.keys = s.keys := by rw [State.takeTicks_eq]
@[simp] theorem State.takeTicks_rand (s : State) : s.takeTicks.rand = s.rand := by rw [State.takeTicks_eq]
@[simp] theorem State.takeTicks_draws (s : State) : s.takeTicks.draws = s.draws := by rw [State.takeTicks_eq]
@[simp] theorem State.takeTicks_ticks (s : State) : s.takeTicks.ticks = 0 := rfl

/-- Where both timers are zero, any number of pending ticks is used up without an effect: so it is before the first step. -/
theorem State.takeTicks_of_zero (s : State) (hd : s.dt = 0#8) (hs : s.st = 0#8) : s.takeTicks = { s with ticks := 0 } := by
  have h : ∀ n, State.tickMany n s = s := by
    intro n
    induction n with
    | zero => rfl
    | succ n ih =>
      simp only [State.tickMany, ih, State.tick]
      cases s
      cases hd
      cases hs
      rfl
  simp only [State.takeTicks, h]

/-- The poll writes the least pressed key and resumes, or changes nothing. -/
theorem State.keyWaitPoll_cases (r : RegIx) (s : State) :
    (∃ k, s.lowestKey = some k ∧ s.keyWaitPoll r = (s.setV r (k.setWidth 8)).setStatus .running) ∨
    (s.lowestKey = none ∧ s.keyWaitPoll r = s) := by
  unfold State.keyWaitPoll
  cases h : s.lowestKey with
  | none => exact .inr ⟨rfl, rfl⟩
  | some k => exact .inl ⟨k, rfl, rfl⟩

/-- The key found is pressed. -/
theorem State.lowestKey_pressed (s : State) (k : RegIx) (h : s.lowestKey = some k) : s.key k = true := by
  unfold State.lowestKey at h
  exact List.find?_some h

/-! ### The end of a step -/

/-- A step's end passes a next state on with new inputs and keeps every stop. -/
theorem endStep_eq_next (o : Host.Outcome State Fault Refusal) (u : State) :
    endStep o = .next u ↔ ∃ t, o = .next t ∧ u = t.drawInputs := by
  cases o <;> simp [endStep, eq_comm]

/-- What a step can do: the faulted state stays, the poll, or the fetch and its instruction. -/
theorem step_eq_next (s u : State) (h : step s = .next u) :
    ∃ t, u = t.drawInputs ∧
      ((∃ f, s.status = .faulted f ∧ t = s.takeTicks) ∨
       (∃ r, s.status = .awaitingKey r ∧ t = s.takeTicks.keyWaitPoll r) ∨
       (s.status = .running ∧ ∃ f, s.takeTicks.fetchInstr = .error f ∧ t = { s.takeTicks with status := .faulted f }) ∨
       (s.status = .running ∧ ∃ i, s.takeTicks.fetchInstr = .ok i ∧ exec i s.takeTicks = .next t)) := by
  obtain ⟨t, ht, rfl⟩ := (endStep_eq_next _ _).1 h
  refine ⟨t, rfl, ?_⟩
  unfold coreStep at ht
  rw [State.takeTicks_status] at ht
  split at ht
  · exact .inl ⟨_, ‹_›, by simpa using ht.symm⟩
  · exact .inr (.inl ⟨_, ‹_›, by simpa using ht.symm⟩)
  · unfold fetchExecute at ht
    split at ht
    · exact .inr (.inr (.inl ⟨‹_›, _, ‹_›, (raise_eq_next _ _ _).1 ht⟩))
    · exact .inr (.inr (.inr ⟨‹_›, _, ‹_›, ht⟩))

end Sys2Proof.Machine
end

