-- ==== Sys2Proof/Laws/Blocks.lean ====
section
/-! SUPPORT. The loops of the meanings: the register blocks of FX55 and FX65 (43_index_memory.md R204, R205) and the drawing of a
sprite (44_display.md R221 to R223). One lemma each for what they leave alone and for what they write. -/

namespace Sys2Proof.Machine

/-! ### FX55 and FX65 -/

/-- Storing registers changes memory alone. -/
theorem State.storeRegs_eq (n : Nat) (s : State) : State.storeRegs n s = { s with mem := (State.storeRegs n s).mem } := by
  induction n with
  | zero => rfl
  | succ n ih => simp only [State.storeRegs, State.memWrite]; rw [ih]

theorem State.wf_storeRegs (n : Nat) (s : State) (hs : s.mem.wf) (hn : s.i.toNat + n ≤ 4096) :
    (State.storeRegs n s).mem.wf := by
  induction n with
  | zero => exact hs
  | succ n ih => exact Memory.wf_write _ (ih (by omega)) _ _ (by simp only [State.blockAddr]; omega)

/-- Every address outside the block is as before, in every memory. -/
theorem State.storeRegs_outside (n : Nat) (s : State) (p : Nat) (h : p < s.i.toNat ∨ s.i.toNat + n ≤ p) :
    (State.storeRegs n s).memRead p = s.memRead p := by
  induction n with
  | zero => rfl
  | succ n ih =>
    rw [State.storeRegs, State.memRead_memWrite_ne _ _ _ _ (by simp only [State.blockAddr]; omega), ih (by omega)]

/-- The k-th byte of the block is register k. -/
theorem State.storeRegs_read (n : Nat) (s : State) (hs : s.mem.wf) (hn : s.i.toNat + n ≤ 4096) (k : Nat) (hk : k < n) :
    (State.storeRegs n s).memRead (s.i.toNat + k) = s.getV (BitVec.ofNat 4 k) := by
  induction n with
  | zero => omega
  | succ n ih =>
    rw [State.storeRegs, State.memRead_memWrite _ (State.wf_storeRegs n s hs (by omega))]
    rw [show s.blockAddr n = s.i.toNat + n from rfl]
    by_cases h : k = n
    · subst h; exact if_pos rfl
    · rw [if_neg (by omega)]; exact ih (by omega) (by omega)

/-- Loading registers changes the registers alone. -/
theorem State.loadRegs_eq (n : Nat) (s : State) : State.loadRegs n s = { s with v := (State.loadRegs n s).v } := by
  induction n with
  | zero => rfl
  | succ n ih => simp only [State.loadRegs, State.setV]; rw [ih]

/-- Register r is the byte at I + r, or as before from n on. -/
theorem State.loadRegs_getV (n : Nat) (s : State) (hn : n ≤ 16) (r : RegIx) :
    (State.loadRegs n s).getV r = if r.toNat < n then s.memRead (s.i.toNat + r.toNat) else s.getV r := by
  induction n with
  | zero => simp [State.loadRegs]
  | succ n ih =>
    have hr := r.isLt
    have hm : (BitVec.ofNat 4 n).toNat = n := by simp; omega
    rw [State.loadRegs, State.getV_setV, ih (by omega)]
    by_cases h : r = BitVec.ofNat 4 n
    · subst h
      rw [if_pos rfl, if_pos (by omega), State.blockAddr, hm]
    · have : r.toNat ≠ n := fun e => h (BitVec.eq_of_toNat_eq (by rw [hm, e]))
      rw [if_neg h]
      split <;> split <;> first | rfl | omega

/-! ### Drawing -/

/-- `t` is `s` with the pixels of `bit` inverted: VF is 1 if one of them was on and as before if none was, and nothing else
changes (44_display.md R221, R223). -/
def Drawn (bit : Nat → Nat → Bool) (s t : State) : Prop :=
  t = { s with v := t.v, display := t.display } ∧
  (∀ c d, t.pix c d = (s.pix c d ^^ bit c d)) ∧
  (∀ r, r ≠ Config.vf → t.getV r = s.getV r) ∧
  ((∃ c d, bit c d = true ∧ s.pix c d = true) → t.getVF = 0x01#8) ∧
  ((∀ c d, bit c d = true → s.pix c d = false) → t.getVF = s.getVF)

/-- Drawing no pixel changes nothing. -/
theorem Drawn.refl (bit : Nat → Nat → Bool) (h : ∀ c d, bit c d = false) (s : State) : Drawn bit s s := by
  refine ⟨rfl, fun c d => by simp [h], fun _ _ => rfl, fun ⟨c, d, hb, _⟩ => by simp [h] at hb, fun _ => rfl⟩

/-- Two drawings that share no pixel are one drawing. -/
theorem Drawn.trans {b1 b2 bit : Nat → Nat → Bool} {s t u : State} (h1 : Drawn b1 s t) (h2 : Drawn b2 t u)
    (hd : ∀ c d, b1 c d = true → b2 c d = false) (hb : ∀ c d, bit c d = (b1 c d || b2 c d)) : Drawn bit s u := by
  obtain ⟨e1, p1, g1, y1, n1⟩ := h1
  obtain ⟨e2, p2, g2, y2, n2⟩ := h2
  refine ⟨by rw [e2, e1], fun c d => ?_, fun r hr => (g2 r hr).trans (g1 r hr), ?_, fun h => ?_⟩
  · have := hd c d
    rw [p2, p1, hb]
    revert this
    cases b1 c d <;> cases b2 c d <;> simp
  · rintro ⟨c, d, hbit, hp⟩
    by_cases hx : ∃ c d, b2 c d = true ∧ t.pix c d = true
    · exact y2 hx
    · rw [n2 fun c d hb2 => Bool.eq_false_iff.2 fun ht => hx ⟨c, d, hb2, ht⟩]
      refine y1 ⟨c, d, ?_, hp⟩
      by_contra hb1
      have hb2 : b2 c d = true := by simpa [hb, hb1] using hbit
      exact hx ⟨c, d, hb2, by simp [p1, hp, hb1]⟩
  · have hf : ∀ c d, b1 c d = true → s.pix c d = false := fun c d hb1 => h c d (by simp [hb, hb1])
    rw [n2 fun c d hb2 => ?_, n1 hf]
    have hb1 : b1 c d = false := Bool.eq_false_iff.2 fun ht => by rw [hd c d ht] at hb2; cases hb2
    rw [p1, hb1, h c d (by rw [hb, hb2, Bool.or_true])]; rfl

@[simp] theorem State.setPix_v (s : State) (x y : Nat) (b : Bool) : (s.setPix x y b).v = s.v := by
  rw [State.setPix_eq]

/-- One sprite bit draws its pixel. -/
theorem State.drawPixel_drawn (x y : Nat) (s : State) (h : x < 64 ∧ y < 32) :
    Drawn (fun c d => decide (c = x ∧ d = y)) s (s.drawPixel x y) := by
  have hp : ∀ c d, (if s.pix x y then s.setVF 0x01#8 else s).pix c d = s.pix c d := fun c d => by split <;> rfl
  have hv : ∀ r, (s.drawPixel x y).getV r = (if s.pix x y then s.setVF 0x01#8 else s).getV r := fun r => by
    simp only [State.getV, State.drawPixel, State.setPix_v]
  refine ⟨?_, fun c d => ?_, fun r hr => ?_, ?_, fun h' => ?_⟩
  · unfold State.drawPixel
    rw [State.setPix_eq]
    split <;> rfl
  · unfold State.drawPixel
    rw [State.pix_setPix, hp]
    by_cases hc : c = x ∧ d = y
    · obtain ⟨rfl, rfl⟩ := hc; simp [h]
    · rw [if_neg (by tauto)]; simp [hc]
  · rw [hv]
    split
    · exact State.getV_setV_ne _ _ _ _ hr
    · rfl
  · rintro ⟨c, d, hb, hx⟩
    obtain ⟨rfl, rfl⟩ := of_decide_eq_true hb
    show (s.drawPixel c d).getV _ = _
    rw [hv, if_pos hx]
    exact State.getVF_setVF _ _
  · show (s.drawPixel x y).getV _ = _
    rw [hv, h' x y (by simp)]
    rfl

/-- The pixels of the first `n` columns of a sprite row `b` whose origin is (x0, y). -/
def rowBit (b : Byte) (x0 y n c d : Nat) : Bool :=
  decide (d = y) && decide (c < 64) && decide (x0 ≤ c) && decide (c < x0 + n) && b.getLsbD (7 - (c - x0))

/-- A sprite row draws its pixels: a column past the right edge is on none. -/
theorem drawColumns_drawn (b : Byte) (x0 y n : Nat) (s : State) (hy : y < 32) :
    Drawn (rowBit b x0 y n) s (drawColumns b x0 y n s) := by
  induction n with
  | zero =>
    refine Drawn.refl _ (fun c d => ?_) s
    simp only [rowBit, Bool.and_eq_false_iff, decide_eq_false_iff_not]; omega
  | succ n ih =>
    have hlast : ∀ c d, rowBit b x0 y (n + 1) c d =
        (rowBit b x0 y n c d || (decide (c = x0 + n ∧ d = y) && decide (x0 + n < 64) && b.getLsbD (7 - n))) := by
      intro c d
      by_cases h : c = x0 + n
      · subst h
        by_cases d = y <;> simp [rowBit, *]
      · have : c < x0 + (n + 1) ↔ c < x0 + n := by omega
        simp [rowBit, h, this]
    have hskip : (decide (x0 + n < 64) && b.getLsbD (7 - n)) = false → rowBit b x0 y (n + 1) = rowBit b x0 y n := by
      intro h
      funext c d
      rw [hlast, Bool.and_assoc, h]
      simp
    simp only [drawColumns, Config.width]
    split
    · rw [hskip (by simp; omega)]; exact ih
    · split
      · rename_i hw hl
        refine ih.trans (State.drawPixel_drawn (x0 + n) y _ ⟨by omega, hy⟩) (fun c d h => ?_) fun c d => ?_
        · simp only [rowBit, Bool.and_eq_true, decide_eq_true_eq] at h
          simp only [decide_eq_false_iff_not]; omega
        · have : x0 + n < 64 := by omega
          simp [hlast, this, hl]
      · rename_i hl
        rw [hskip (by simp [hl])]; exact ih

/-- A sprite of `n` rows draws its bits on the screen: a row past the bottom edge is on no pixel. -/
theorem drawRows_drawn (x0 y0 n : Nat) (s : State) : Drawn (s.spriteBit x0 y0 n) s (drawRows x0 y0 n s) := by
  induction n with
  | zero =>
    refine Drawn.refl _ (fun c d => ?_) s
    simp only [State.spriteBit, Bool.and_eq_false_iff, decide_eq_false_iff_not]; omega
  | succ n ih =>
    have hlast : ∀ c d, s.spriteBit x0 y0 (n + 1) c d =
        (s.spriteBit x0 y0 n c d || (decide (y0 + n < 32) && rowBit (s.memRead (s.blockAddr n)) x0 (y0 + n) 8 c d)) := by
      intro c d
      by_cases h : d = y0 + n
      · subst h
        simp [State.spriteBit, rowBit]
        by_cases c < 64 <;> simp [*, Bool.and_assoc]
      · have : d < y0 + (n + 1) ↔ d < y0 + n := by omega
        simp [State.spriteBit, rowBit, h, this]
    simp only [drawRows, Config.height]
    split
    · rename_i hh
      have : s.spriteBit x0 y0 (n + 1) = s.spriteBit x0 y0 n := by
        funext c d
        have : ¬ y0 + n < 32 := by omega
        simp [hlast, this]
      rw [this]; exact ih
    · rename_i hh
      have he : (drawRows x0 y0 n s).memRead ((drawRows x0 y0 n s).blockAddr n) = s.memRead (s.blockAddr n) := by
        rw [ih.1]; rfl
      rw [he]
      refine ih.trans (drawColumns_drawn _ x0 (y0 + n) 8 _ (by omega)) (fun c d h => ?_) fun c d => ?_
      · simp only [State.spriteBit, Bool.and_eq_true, decide_eq_true_eq] at h
        have : d ≠ y0 + n := by omega
        simp [rowBit, this]
      · have : y0 + n < 32 := by omega
        simp [hlast, this]

end Sys2Proof.Machine
end

