-- ==== Sys2Proof/Laws/PerInstr.lean ====
section
/-! SUPPORT. The per-instruction family Encoding: an instruction's word is the one its row of spec/opcode_table.json gives it:
the row with the instruction's mnemonic is in the table, and the word's bits under the row's mask are the row's match. -/

namespace Sys2Proof

theorem formA_mask (op : BitVec 4) (nnn : Addr12) : formA op nnn &&& 0xF000#16 = op ++ 0x000#12 := by
  rw [formA, show (0xF000#16) = (0xF#4 ++ 0x000#12 : BitVec 16) from rfl, BitVec.and_append]
  congr 1
  · exact BitVec.and_allOnes
  · exact BitVec.and_zero

theorem formXNN_mask (op : BitVec 4) (x : RegIx) (nn : Byte) : formXNN op x nn &&& 0xF000#16 = op ++ 0x000#12 :=
  formA_mask op (x ++ nn)

theorem formXYN_mask (op : BitVec 4) (x y : RegIx) (n : Nibble) : formXYN op x y n &&& 0xF000#16 = op ++ 0x000#12 :=
  formA_mask op (x ++ (y ++ n : BitVec 8))

theorem formXNN_mask_fixed (op : BitVec 4) (x : RegIx) (nn : Byte) :
    formXNN op x nn &&& 0xF0FF#16 = op ++ (0x0#4 ++ nn : BitVec 12) := by
  rw [formXNN, show (0xF0FF#16) = (0xF#4 ++ (0x0#4 ++ 0xFF#8 : BitVec 12) : BitVec 16) from rfl,
    BitVec.and_append, BitVec.and_append]
  congr 1
  · exact BitVec.and_allOnes
  · congr 1
    · exact BitVec.and_zero
    · exact BitVec.and_allOnes

theorem formXYN_mask_fixed (op : BitVec 4) (x y : RegIx) (n : Nibble) :
    formXYN op x y n &&& 0xF00F#16 = op ++ (0x0#4 ++ (0x0#4 ++ n : BitVec 8) : BitVec 12) := by
  rw [formXYN, show (0xF00F#16) = (0xF#4 ++ (0x0#4 ++ (0x0#4 ++ 0xF#4 : BitVec 8) : BitVec 12) : BitVec 16) from rfl,
    BitVec.and_append, BitVec.and_append, BitVec.and_append]
  congr 1
  · exact BitVec.and_allOnes
  · congr 1
    · exact BitVec.and_zero
    · congr 1
      · exact BitVec.and_zero
      · exact BitVec.and_allOnes

/-- The row of the table with the instruction's mnemonic matches the instruction's word. -/
def Laws.Encoding.Statement (i : Instr) : Prop :=
  ∃ r ∈ opcodeRows, r.mnemonic = i.mnemonic ∧ r.matches (encode i) = true

/-- A row that matches by its mask and pattern gives the statement. -/
theorem Laws.Encoding.of_row (i : Instr) (mask pattern : Word)
    (hr : (⟨i.mnemonic, mask, pattern⟩ : OpcodeRow) ∈ opcodeRows) (hm : encode i &&& mask = pattern) :
    Laws.Encoding.Statement i :=
  ⟨_, hr, rfl, by simp [OpcodeRow.matches, hm]⟩

theorem Laws.Encoding.clearScreen : Laws.Encoding.Statement (.clearScreen) :=
  of_row _ 0xFFFF#16 0x00E0#16 (by simp [opcodeRows, Instr.mnemonic]) (by decide)

theorem Laws.Encoding.ret : Laws.Encoding.Statement (.ret) :=
  of_row _ 0xFFFF#16 0x00EE#16 (by simp [opcodeRows, Instr.mnemonic]) (by decide)

theorem Laws.Encoding.jump (nnn : Addr12) : Laws.Encoding.Statement (.jump nnn) :=
  of_row _ 0xF000#16 0x1000#16 (by simp [opcodeRows, Instr.mnemonic]) (formA_mask _ _)

theorem Laws.Encoding.call (nnn : Addr12) : Laws.Encoding.Statement (.call nnn) :=
  of_row _ 0xF000#16 0x2000#16 (by simp [opcodeRows, Instr.mnemonic]) (formA_mask _ _)

theorem Laws.Encoding.skipIfEqual (x : RegIx) (nn : Byte) : Laws.Encoding.Statement (.skipIfEqual x nn) :=
  of_row _ 0xF000#16 0x3000#16 (by simp [opcodeRows, Instr.mnemonic]) (formXNN_mask _ _ _)

theorem Laws.Encoding.skipIfNotEqual (x : RegIx) (nn : Byte) : Laws.Encoding.Statement (.skipIfNotEqual x nn) :=
  of_row _ 0xF000#16 0x4000#16 (by simp [opcodeRows, Instr.mnemonic]) (formXNN_mask _ _ _)

theorem Laws.Encoding.skipIfRegistersEqual (x : RegIx) (y : RegIx) : Laws.Encoding.Statement (.skipIfRegistersEqual x y) :=
  of_row _ 0xF00F#16 0x5000#16 (by simp [opcodeRows, Instr.mnemonic]) (formXYN_mask_fixed _ _ _ _)

theorem Laws.Encoding.setRegister (x : RegIx) (nn : Byte) : Laws.Encoding.Statement (.setRegister x nn) :=
  of_row _ 0xF000#16 0x6000#16 (by simp [opcodeRows, Instr.mnemonic]) (formXNN_mask _ _ _)

theorem Laws.Encoding.addImmediate (x : RegIx) (nn : Byte) : Laws.Encoding.Statement (.addImmediate x nn) :=
  of_row _ 0xF000#16 0x7000#16 (by simp [opcodeRows, Instr.mnemonic]) (formXNN_mask _ _ _)

theorem Laws.Encoding.copyRegister (x : RegIx) (y : RegIx) : Laws.Encoding.Statement (.copyRegister x y) :=
  of_row _ 0xF00F#16 0x8000#16 (by simp [opcodeRows, Instr.mnemonic]) (formXYN_mask_fixed _ _ _ _)

theorem Laws.Encoding.or (x : RegIx) (y : RegIx) : Laws.Encoding.Statement (.or x y) :=
  of_row _ 0xF00F#16 0x8001#16 (by simp [opcodeRows, Instr.mnemonic]) (formXYN_mask_fixed _ _ _ _)

theorem Laws.Encoding.and (x : RegIx) (y : RegIx) : Laws.Encoding.Statement (.and x y) :=
  of_row _ 0xF00F#16 0x8002#16 (by simp [opcodeRows, Instr.mnemonic]) (formXYN_mask_fixed _ _ _ _)

theorem Laws.Encoding.xor (x : RegIx) (y : RegIx) : Laws.Encoding.Statement (.xor x y) :=
  of_row _ 0xF00F#16 0x8003#16 (by simp [opcodeRows, Instr.mnemonic]) (formXYN_mask_fixed _ _ _ _)

theorem Laws.Encoding.addRegisters (x : RegIx) (y : RegIx) : Laws.Encoding.Statement (.addRegisters x y) :=
  of_row _ 0xF00F#16 0x8004#16 (by simp [opcodeRows, Instr.mnemonic]) (formXYN_mask_fixed _ _ _ _)

theorem Laws.Encoding.subtract (x : RegIx) (y : RegIx) : Laws.Encoding.Statement (.subtract x y) :=
  of_row _ 0xF00F#16 0x8005#16 (by simp [opcodeRows, Instr.mnemonic]) (formXYN_mask_fixed _ _ _ _)

theorem Laws.Encoding.shiftRight (x : RegIx) (y : RegIx) : Laws.Encoding.Statement (.shiftRight x y) :=
  of_row _ 0xF00F#16 0x8006#16 (by simp [opcodeRows, Instr.mnemonic]) (formXYN_mask_fixed _ _ _ _)

theorem Laws.Encoding.reverseSubtract (x : RegIx) (y : RegIx) : Laws.Encoding.Statement (.reverseSubtract x y) :=
  of_row _ 0xF00F#16 0x8007#16 (by simp [opcodeRows, Instr.mnemonic]) (formXYN_mask_fixed _ _ _ _)

theorem Laws.Encoding.shiftLeft (x : RegIx) (y : RegIx) : Laws.Encoding.Statement (.shiftLeft x y) :=
  of_row _ 0xF00F#16 0x800E#16 (by simp [opcodeRows, Instr.mnemonic]) (formXYN_mask_fixed _ _ _ _)

theorem Laws.Encoding.skipIfRegistersNotEqual (x : RegIx) (y : RegIx) : Laws.Encoding.Statement (.skipIfRegistersNotEqual x y) :=
  of_row _ 0xF00F#16 0x9000#16 (by simp [opcodeRows, Instr.mnemonic]) (formXYN_mask_fixed _ _ _ _)

theorem Laws.Encoding.setIndex (nnn : Addr12) : Laws.Encoding.Statement (.setIndex nnn) :=
  of_row _ 0xF000#16 0xA000#16 (by simp [opcodeRows, Instr.mnemonic]) (formA_mask _ _)

theorem Laws.Encoding.jumpWithOffset (nnn : Addr12) : Laws.Encoding.Statement (.jumpWithOffset nnn) :=
  of_row _ 0xF000#16 0xB000#16 (by simp [opcodeRows, Instr.mnemonic]) (formA_mask _ _)

theorem Laws.Encoding.randomAnd (x : RegIx) (nn : Byte) : Laws.Encoding.Statement (.randomAnd x nn) :=
  of_row _ 0xF000#16 0xC000#16 (by simp [opcodeRows, Instr.mnemonic]) (formXNN_mask _ _ _)

theorem Laws.Encoding.draw (x : RegIx) (y : RegIx) (n : Nibble) : Laws.Encoding.Statement (.draw x y n) :=
  of_row _ 0xF000#16 0xD000#16 (by simp [opcodeRows, Instr.mnemonic]) (formXYN_mask _ _ _ _)

theorem Laws.Encoding.skipIfKey (x : RegIx) : Laws.Encoding.Statement (.skipIfKey x) :=
  of_row _ 0xF0FF#16 0xE09E#16 (by simp [opcodeRows, Instr.mnemonic]) (formXNN_mask_fixed _ _ _)

theorem Laws.Encoding.skipIfNotKey (x : RegIx) : Laws.Encoding.Statement (.skipIfNotKey x) :=
  of_row _ 0xF0FF#16 0xE0A1#16 (by simp [opcodeRows, Instr.mnemonic]) (formXNN_mask_fixed _ _ _)

theorem Laws.Encoding.getDelayTimer (x : RegIx) : Laws.Encoding.Statement (.getDelayTimer x) :=
  of_row _ 0xF0FF#16 0xF007#16 (by simp [opcodeRows, Instr.mnemonic]) (formXNN_mask_fixed _ _ _)

theorem Laws.Encoding.getKey (x : RegIx) : Laws.Encoding.Statement (.getKey x) :=
  of_row _ 0xF0FF#16 0xF00A#16 (by simp [opcodeRows, Instr.mnemonic]) (formXNN_mask_fixed _ _ _)

theorem Laws.Encoding.setDelayTimer (x : RegIx) : Laws.Encoding.Statement (.setDelayTimer x) :=
  of_row _ 0xF0FF#16 0xF015#16 (by simp [opcodeRows, Instr.mnemonic]) (formXNN_mask_fixed _ _ _)

theorem Laws.Encoding.setSoundTimer (x : RegIx) : Laws.Encoding.Statement (.setSoundTimer x) :=
  of_row _ 0xF0FF#16 0xF018#16 (by simp [opcodeRows, Instr.mnemonic]) (formXNN_mask_fixed _ _ _)

theorem Laws.Encoding.addToIndex (x : RegIx) : Laws.Encoding.Statement (.addToIndex x) :=
  of_row _ 0xF0FF#16 0xF01E#16 (by simp [opcodeRows, Instr.mnemonic]) (formXNN_mask_fixed _ _ _)

theorem Laws.Encoding.fontCharacter (x : RegIx) : Laws.Encoding.Statement (.fontCharacter x) :=
  of_row _ 0xF0FF#16 0xF029#16 (by simp [opcodeRows, Instr.mnemonic]) (formXNN_mask_fixed _ _ _)

theorem Laws.Encoding.binaryDecimalConversion (x : RegIx) : Laws.Encoding.Statement (.binaryDecimalConversion x) :=
  of_row _ 0xF0FF#16 0xF033#16 (by simp [opcodeRows, Instr.mnemonic]) (formXNN_mask_fixed _ _ _)

theorem Laws.Encoding.storeMemory (x : RegIx) : Laws.Encoding.Statement (.storeMemory x) :=
  of_row _ 0xF0FF#16 0xF055#16 (by simp [opcodeRows, Instr.mnemonic]) (formXNN_mask_fixed _ _ _)

theorem Laws.Encoding.loadMemory (x : RegIx) : Laws.Encoding.Statement (.loadMemory x) :=
  of_row _ 0xF0FF#16 0xF065#16 (by simp [opcodeRows, Instr.mnemonic]) (formXNN_mask_fixed _ _ _)

end Sys2Proof
end

