-- ==== Sys2Proof/Laws/Encoding.lean ====
section
/-! SUPPORT. The fields of an assembled word and the word assembled from its fields (30_encoding.md R101, R102): what decode and
encode are proved from. -/

namespace Sys2Proof

theorem opField_formA (op : BitVec 4) (nnn : Addr12) : opField (formA op nnn) = op :=
  BitVec.eq_of_getLsbD_eq fun i hi => by
    simp only [opField, formA, BitVec.getLsbD_extractLsb', hi, decide_true, Bool.true_and]
    rw [show (12 + i) = i + 12 by omega]
    exact (BitVec.getLsbD_append (x := op) (y := nnn) (i := i + 12)).trans (by simp)

theorem nnnField_formA (op : BitVec 4) (nnn : Addr12) : nnnField (formA op nnn) = nnn :=
  BitVec.eq_of_getLsbD_eq fun i hi => by
    simp only [nnnField, formA, BitVec.getLsbD_extractLsb', hi, decide_true, Bool.true_and]
    exact (BitVec.getLsbD_append (x := op) (y := nnn) (i := 0 + i)).trans (by simp [hi])

/-- A field of the low 12 bits is that field of the 12-bit part. -/
theorem getLsbD_formA_low (op : BitVec 4) (nnn : Addr12) (i : Nat) (hi : i < 12) :
    (formA op nnn).getLsbD i = nnn.getLsbD i :=
  (BitVec.getLsbD_append (x := op) (y := nnn) (i := i)).trans (by simp [hi])

theorem opField_formXNN (op : BitVec 4) (x : RegIx) (nn : Byte) : opField (formXNN op x nn) = op := opField_formA op (x ++ nn)

theorem xField_formXNN (op : BitVec 4) (x : RegIx) (nn : Byte) : xField (formXNN op x nn) = x :=
  BitVec.eq_of_getLsbD_eq fun i hi => by
    simp only [xField, BitVec.getLsbD_extractLsb', hi, decide_true, Bool.true_and]
    refine (getLsbD_formA_low op (x ++ nn) (8 + i) (by omega)).trans ?_
    exact (BitVec.getLsbD_append (x := x) (y := nn) (i := 8 + i)).trans (by simp)

theorem nnField_formXNN (op : BitVec 4) (x : RegIx) (nn : Byte) : nnField (formXNN op x nn) = nn :=
  BitVec.eq_of_getLsbD_eq fun i hi => by
    simp only [nnField, BitVec.getLsbD_extractLsb', hi, decide_true, Bool.true_and]
    refine (getLsbD_formA_low op (x ++ nn) (0 + i) (by omega)).trans ?_
    exact (BitVec.getLsbD_append (x := x) (y := nn) (i := 0 + i)).trans (by simp [hi])

theorem opField_formXYN (op : BitVec 4) (x y : RegIx) (n : Nibble) : opField (formXYN op x y n) = op :=
  opField_formA op (x ++ (y ++ n : BitVec 8))

theorem xField_formXYN (op : BitVec 4) (x y : RegIx) (n : Nibble) : xField (formXYN op x y n) = x :=
  xField_formXNN op x (y ++ n)

theorem nnField_formXYN (op : BitVec 4) (x y : RegIx) (n : Nibble) : nnField (formXYN op x y n) = (y ++ n : BitVec 8) :=
  nnField_formXNN op x (y ++ n)

theorem yField_eq (w : Word) : yField w = (nnField w).extractLsb' 4 4 :=
  BitVec.eq_of_getLsbD_eq fun i hi => by
    simp [yField, nnField, hi]

theorem nField_eq (w : Word) : nField w = (nnField w).extractLsb' 0 4 :=
  BitVec.eq_of_getLsbD_eq fun i hi => by
    simp [nField, nnField, hi]

theorem yField_formXYN (op : BitVec 4) (x y : RegIx) (n : Nibble) : yField (formXYN op x y n) = y := by
  rw [yField_eq, nnField_formXYN]
  refine BitVec.eq_of_getLsbD_eq fun i hi => ?_
  simp only [BitVec.getLsbD_extractLsb', hi, decide_true, Bool.true_and]
  exact (BitVec.getLsbD_append (x := y) (y := n) (i := 4 + i)).trans (by simp)

theorem nField_formXYN (op : BitVec 4) (x y : RegIx) (n : Nibble) : nField (formXYN op x y n) = n := by
  rw [nField_eq, nnField_formXYN]
  refine BitVec.eq_of_getLsbD_eq fun i hi => ?_
  simp only [BitVec.getLsbD_extractLsb', hi, decide_true, Bool.true_and]
  exact (BitVec.getLsbD_append (x := y) (y := n) (i := 0 + i)).trans (by simp [hi])

/-- Every word is assembled from its op and NNN. -/
theorem formA_fields (w : Word) : formA (opField w) (nnnField w) = w :=
  BitVec.eq_of_getLsbD_eq fun i hi => by
    refine (BitVec.getLsbD_append (x := opField w) (y := nnnField w) (i := i)).trans ?_
    simp only [opField, nnnField, BitVec.getLsbD_extractLsb']
    by_cases h : i < 12
    · simp [h]
    · simp [h, show i - 12 < 4 by omega, show 12 + (i - 12) = i by omega]

/-- The NNN of a word is its X and NN. -/
theorem nnnField_eq (w : Word) : (xField w ++ nnField w : BitVec 12) = nnnField w :=
  BitVec.eq_of_getLsbD_eq fun i hi => by
    refine (BitVec.getLsbD_append (x := xField w) (y := nnField w) (i := i)).trans ?_
    simp only [xField, nnField, nnnField, BitVec.getLsbD_extractLsb']
    by_cases h : i < 8
    · simp [h, hi]
    · simp [h, hi, show i - 8 < 4 by omega, show 8 + (i - 8) = i by omega]

/-- The NN of a word is its Y and N. -/
theorem nnField_eq (w : Word) : (yField w ++ nField w : BitVec 8) = nnField w :=
  BitVec.eq_of_getLsbD_eq fun i hi => by
    refine (BitVec.getLsbD_append (x := yField w) (y := nField w) (i := i)).trans ?_
    simp only [yField, nField, nnField, BitVec.getLsbD_extractLsb']
    by_cases h : i < 4
    · simp [h, hi]
    · simp [h, hi, show i - 4 < 4 by omega, show 4 + (i - 4) = i by omega]

/-- Every word is assembled from its op, X and NN. -/
theorem formXNN_fields (w : Word) : formXNN (opField w) (xField w) (nnField w) = w := by
  rw [formXNN, nnnField_eq]; exact formA_fields w

/-- Every word is assembled from its four nibbles. -/
theorem formXYN_fields (w : Word) : formXYN (opField w) (xField w) (yField w) (nField w) = w := by
  rw [formXYN, nnField_eq]; exact formXNN_fields w

/-- The fields as numbers: op is the word's thousands in hexadecimal, N and NN its last one and two digits. -/
theorem opField_toNat (w : Word) : (opField w).toNat = w.toNat / 0x1000 := by
  have := w.isLt
  simp only [opField, BitVec.extractLsb'_toNat, Nat.shiftRight_eq_div_pow]
  omega

theorem nField_toNat (w : Word) : (nField w).toNat = w.toNat % 16 := by
  simp [nField, BitVec.extractLsb'_toNat]

theorem nnField_toNat (w : Word) : (nnField w).toNat = w.toNat % 256 := by
  simp [nnField, BitVec.extractLsb'_toNat]

/-- The decoder's only rejection of a word is `Unrecognized` of that word. -/
theorem decode_eq_error (w : Word) (e : DecodeError) (h : decode w = .error e) : e = .unrecognized w := by
  unfold decode at h
  extract_lets at h
  iterate 34 (rcases ite_eq_iff.1 h with ⟨-, h⟩ | ⟨-, h⟩; cases h)
  cases h; rfl

/-- A word whose first nibble is not 0 is neither 00E0 nor 00EE. -/
theorem ne_family0 (w : Word) (h : opField w ≠ 0x0#4) : w ≠ 0x00E0#16 ∧ w ≠ 0x00EE#16 :=
  ⟨fun e => h (by rw [e]; decide), fun e => h (by rw [e]; decide)⟩

end Sys2Proof
end

