-- ==== Sys2Proof/Certificates/Slice0/Obligations.lean ====
section
/-! DEFINITION. The statements for the provers, one definition each; OBLIGATIONS.json lists them with the rules they formalise.
An instruction's statement takes the state `s` before the step, with PC at the instruction (A = s.pc), and says that exec
answers a next state `t` and what `t` holds; `Frame.Holds` says that everything else is as before. -/

open Sys2Proof Sys2Proof.Machine

/-! ### Encoding -/

/-- Words written out from 30_encoding.md R101 and R104, the source's own examples among them, decode as the spec says.
The bit patterns are general knowledge in the spec (log entry 15). -/
def Obligations.SpecWordsDecode : Prop :=
  decode 0xD123 = .ok (.draw 1 2 3) ∧ decode 0x00E0 = .ok .clearScreen ∧ decode 0x5230 = .ok (.skipIfRegistersEqual 2 3) ∧
  decode 0x8AB8 = .error (.unrecognized 0x8AB8) ∧ decode 0x00EE = .ok .ret ∧ decode 0xBFED = .ok (.jumpWithOffset 0xFED) ∧
  decode 0x6A2B = .ok (.setRegister 0xA 0x2B) ∧ decode 0x812E = .ok (.shiftLeft 1 2) ∧
  decode 0xF255 = .ok (.storeMemory 2) ∧ decode 0xF30A = .ok (.getKey 3) ∧ decode 0xC10F = .ok (.randomAnd 1 0x0F)

/-- Every instruction, with every operand at every value, is what its own word decodes to (30_encoding.md R101 to R104).
The bit patterns are general knowledge in the spec (log entry 15). -/
def Obligations.DecodeOfEncode : Prop :=
  ∀ i : Instr, decode (encode i) = .ok i

/-- Every word that decodes is the word of the instruction it decodes to: each word has one meaning and no bit of it is
dropped (30_encoding.md R104, R108). The bit patterns are general knowledge in the spec (log entry 15). -/
def Obligations.EncodeOfDecode : Prop :=
  ∀ (w : Word) (i : Instr), decode w = .ok i → encode i = w

/-- The decoder accepts exactly the words that match a row of the opcode table, and the rest are `Unrecognized`
(30_encoding.md R106, R108). The strict decode is the spec's own decision D6. The bit patterns are general knowledge in
the spec (log entry 15). -/
def Obligations.DecoderAcceptsTheTable : Prop :=
  ∀ w : Word, ((∃ i, decode w = .ok i) ↔ wellFormedWord w = true) ∧
    (wellFormedWord w = false → decode w = .error (.unrecognized w))

/-- The words that decode to no instruction are the sets of 30_encoding.md R107 (families 0, 5, 8, 9, E, F), and there is
no other family with one. The sets are the spec's own reading, decision D6. The bit patterns are general knowledge in the
spec (log entry 15). -/
def Obligations.UnrecognizedWords : Prop :=
  ∀ w : Word, decode w = .error (.unrecognized w) ↔
    (w.toNat < 0x1000 ∧ w ≠ 0x00E0 ∧ w ≠ 0x00EE) ∨
    (w.toNat / 0x1000 = 5 ∧ w.toNat % 16 ≠ 0) ∨
    (w.toNat / 0x1000 = 8 ∧ w.toNat % 16 ∈ [8, 9, 0xA, 0xB, 0xC, 0xD, 0xF]) ∨
    (w.toNat / 0x1000 = 9 ∧ w.toNat % 16 ≠ 0) ∨
    (w.toNat / 0x1000 = 0xE ∧ w.toNat % 256 ∉ [0x9E, 0xA1]) ∨
    (w.toNat / 0x1000 = 0xF ∧ w.toNat % 256 ∉ [0x07, 0x0A, 0x15, 0x18, 0x1E, 0x29, 0x33, 0x55, 0x65])

/-! ### The step -/

/-- In status `Running`, where both bytes at PC exist and decode, big-endian and at any alignment, to an instruction, the
step is exec of that instruction, on the state after the driver's ticks (log entry 4); what the step adds after exec is
only the next step's inputs, free values (log entry 2). (40_fetch_and_step.md R131, R134; 20_memory.md R72.) The fetch at
an odd PC is the spec's own decision D4. -/
def Obligations.StepRunsTheDecodedInstruction : Prop :=
  ∀ (s : State) (i : Instr), s.status = .running → s.pc.toNat + 1 ≤ 0xFFF →
    decode (s.memRead s.pc.toNat ++ s.memRead (s.pc.toNat + 1)) = .ok i →
    step s = endStep (exec i s.takeTicks) ∧
    ∀ t, endStep (.next t) = .next { t with
      keys := Config.freeKeys t.draws, rand := Config.freeRand t.draws, ticks := Config.freeTicks t.draws,
      draws := t.draws + 1 }

/-- A tick takes 1 from each timer that is not zero, and changes nothing else (45_timers_keys_random.md R250). -/
def Obligations.TickDecrementsTimers : Prop :=
  ∀ s : State,
    s.tick.dt.toNat = (if 0 < s.dt.toNat then s.dt.toNat - 1 else 0) ∧
    s.tick.st.toNat = (if 0 < s.st.toNat then s.st.toNat - 1 else 0) ∧
    s.tick.pc = s.pc ∧ Frame.Holds { delay := true, sound := true } s s.tick

/-- A step is the core's step on the state after the ticks that stand between two steps; those ticks take no timer below
zero and change the timers alone (45_timers_keys_random.md R250, R251). That they come before the step is the model's
choice, log entry 4; the next step's inputs, which `endStep` draws, are log entry 2. -/
def Obligations.TicksBeforeTheStep : Prop :=
  ∀ s : State, step s = endStep (coreStep s.takeTicks) ∧
    s.takeTicks.dt.toNat = s.dt.toNat - s.ticks ∧ s.takeTicks.st.toNat = s.st.toNat - s.ticks ∧
    s.takeTicks.ticks = 0 ∧ s.takeTicks = { s with dt := s.takeTicks.dt, st := s.takeTicks.st, ticks := 0 }

/-- Every step of every state answers a next state: no fault of the core and no wait ends the run in the model
(40_fetch_and_step.md R130, R136; 60_exceptions.md R264; log entry 5). -/
def Obligations.EveryStepAnswers : Prop :=
  ∀ s : State, ∃ t, step s = .next t

/-- A step in status `Faulted` changes nothing: no fetch, no poll, no write; the status stays. Only the ticks before it
count (45_timers_keys_random.md R251). The spec's own decisions D31 and D23; that the pending ticks are taken in this step
is the model's choice, log entry 4. (40_fetch_and_step.md R136.) -/
def Obligations.FaultedIsFinal : Prop :=
  ∀ (s : State) (f : FaultInfo), s.status = .faulted f →
    ∃ t, step s = .next t ∧ t.status = .faulted f ∧ t.pc = s.pc ∧
      t.dt.toNat = s.dt.toNat - s.ticks ∧ t.st.toNat = s.st.toNat - s.ticks ∧
      Frame.Holds { delay := true, sound := true, ports := true } s t

/-- A poll that finds a pressed key writes the least one to the awaited register and resumes; nothing is fetched and PC
stays, and the timers have counted the pending ticks and no more (45_timers_keys_random.md R246, R249, R251). That the wait
reads the level is the spec's own decision D21; that the pending ticks are taken in this step is log entry 4. -/
def Obligations.KeyWaitTakesTheLowestKey : Prop :=
  ∀ (s : State) (r k : RegIx), s.status = .awaitingKey r → s.key k = true → (∀ j : RegIx, j < k → s.key j = false) →
    ∃ t, step s = .next t ∧ (t.getV r).toNat = k.toNat ∧ t.status = .running ∧ t.pc = s.pc ∧
      t.dt.toNat = s.dt.toNat - s.ticks ∧ t.st.toNat = s.st.toNat - s.ticks ∧
      Frame.Holds { regs := [r], delay := true, sound := true, status := true, ports := true } s t

/-- A poll that finds no pressed key changes nothing: PC stays, and only the timers have counted the pending ticks
(45_timers_keys_random.md R246, R249, R251). That the wait reads the level is the spec's own decision D21; that the pending
ticks are taken in this step is log entry 4. -/
def Obligations.KeyWaitWithoutKeyWaits : Prop :=
  ∀ (s : State) (r : RegIx), s.status = .awaitingKey r → (∀ k : RegIx, s.key k = false) →
    ∃ t, step s = .next t ∧ t.status = .awaitingKey r ∧ t.pc = s.pc ∧
      t.dt.toNat = s.dt.toNat - s.ticks ∧ t.st.toNat = s.st.toNat - s.ticks ∧
      Frame.Holds { delay := true, sound := true, ports := true } s t

/-- A fetch whose bytes are not both inside memory raises `MemoryAccessViolation` without a word, at the lowest address
outside; PC stays, and the fault leaves the timers as the pending ticks have made them (40_fetch_and_step.md R133, R135).
Its alignment and bounds are the spec's own decision D4, that nothing else changes is D7; that the pending ticks are taken
in this step is log entry 4. -/
def Obligations.FetchOutsideMemoryFaults : Prop :=
  ∀ s : State, s.status = .running → 0xFFF < s.pc.toNat + 1 →
    ∃ t, step s = .next t ∧
      t.status = .faulted (.memoryAccessViolation s.pc none (if 0xFFF < s.pc.toNat then s.pc.toNat else s.pc.toNat + 1)) ∧
      t.pc = s.pc ∧
      t.dt.toNat = s.dt.toNat - s.ticks ∧ t.st.toNat = s.st.toNat - s.ticks ∧
      Frame.Holds { delay := true, sound := true, status := true, ports := true } s t

/-- Executing `Unrecognized(w)` raises `InvalidOpcode(pc = A, word = w)`: it is no no-op, and nothing else changes, the
timers being as the pending ticks have made them (60_exceptions.md R261; 40_fetch_and_step.md R135). That nothing else
changes, PC included, is the spec's own decision D7, the fetch at an odd PC is D4; that the pending ticks are taken in this
step is log entry 4. -/
def Obligations.UnrecognizedWordFaults : Prop :=
  ∀ (s : State) (w : Word), s.status = .running → s.pc.toNat + 1 ≤ 0xFFF →
    w = s.memRead s.pc.toNat ++ s.memRead (s.pc.toNat + 1) → decode w = .error (.unrecognized w) →
    ∃ t, step s = .next t ∧ t.status = .faulted (.invalidOpcode s.pc w) ∧ t.pc = s.pc ∧
      t.dt.toNat = s.dt.toNat - s.ticks ∧ t.st.toNat = s.st.toNat - s.ticks ∧
      Frame.Holds { delay := true, sound := true, status := true, ports := true } s t

/-- Instruction fetch is coherent with data writes: after FX55 the fetch at any address inside the stored block reads the
registers just stored, big-endian (20_memory.md R85; the spec's own decision D26). -/
def Obligations.FetchSeesStoredBytes : Prop :=
  ∀ (s t : State) (x : RegIx) (k : Nat), s.mem.wf → s.i.toNat + x.toNat ≤ 0xFFF → k + 1 ≤ x.toNat →
    exec (.storeMemory x) s = .next t →
    (t.setPc (BitVec.ofNat 16 (s.i.toNat + k))).fetch =
      .ok (s.getV (BitVec.ofNat 4 k) ++ s.getV (BitVec.ofNat 4 (k + 1)))

/-- Whatever the state, a word placed where the next step fetches is the word the next step runs (log entry 10: placing a
word stands for the load of a program; log entry 4: the pending ticks come before it; log entry 2: the next step's inputs
come after it). The bit patterns are general knowledge in the spec (log entry 15). -/
def Obligations.PlacedWordRunsNext : Prop :=
  ∀ (s : State) (w : Nat) (i : Instr), s.mem.wf → decodeTableWord 16 w = some i →
    step (s.withFetchWord 16 w) = endStep (exec i (s.withFetchWord 16 w).takeTicks)

/-! ### Whole-machine rules -/

/-- Every step keeps the invariant, from every state that meets it: memory stays in canonical form inside 0x000..0xFFF, and
a fault's record keeps naming the address PC holds and a cause of its kind (20_memory.md R70, R73; 60_exceptions.md R260,
R262, R264). What PC holds after a fault is the spec's own decision D7. -/
def Obligations.StepKeepsInv : Prop :=
  ∀ s t : State, s.Inv → step s = .next t → t.Inv

/-- The state after machine initialization meets the invariant. -/
def Obligations.ResetMeetsInv : Prop := State.reset.Inv

/-- Machine initialization: every register, stack slot, timer, byte of memory and pixel zero, SP zero, status `Running`,
PC = 0x200 (10_state.md R47; 70_reset_and_hazards.md R290). That PC is 0x200 is the spec's own decision D3. -/
def Obligations.ResetState : Prop :=
  (∀ r, State.reset.getV r = 0) ∧ State.reset.i = 0 ∧ State.reset.sp = 0 ∧
  (∀ (j : Nat) (h : j < 16), State.reset.stack[j] = 0) ∧ State.reset.dt = 0 ∧ State.reset.st = 0 ∧
  (∀ a, State.reset.memRead a = 0) ∧ (∀ x y, State.reset.pix x y = false) ∧
  State.reset.status = .running ∧ State.reset.pc = 0x200

/-- Every fault of every instruction is precise: where exec ends a running state in `Faulted`, only the status has changed,
and the record names the instruction's own address and word (40_fetch_and_step.md R135; 60_exceptions.md R262, R264; the
spec's own decision D7). -/
def Obligations.FaultsArePrecise : Prop :=
  ∀ (i : Instr) (s t : State) (f : FaultInfo), s.status = .running → exec i s = .next t → t.status = .faulted f →
    t = { s with status := .faulted f } ∧ f.pc = s.pc ∧ f.word = some (encode i)

/-- Only the instructions 60_exceptions.md R260 names can fault: every other one leaves a safe state safe. The key tests'
fault is the spec's own decision D20. -/
def Obligations.OnlyNamedInstructionsFault : Prop :=
  ∀ (i : Instr) (s t : State), s.status = .running → exec i s = .next t → ¬ t.Safe →
    i = .ret ∨ (∃ nnn, i = .call nnn) ∨ (∃ x y n, i = .draw x y n) ∨ (∃ x, i = .skipIfKey x) ∨ (∃ x, i = .skipIfNotKey x) ∨
    (∃ x, i = .binaryDecimalConversion x) ∨ (∃ x, i = .storeMemory x) ∨ (∃ x, i = .loadMemory x)

/-- Only `FX0A` enters the key wait, and its register is the one awaited (60_exceptions.md R277; 10_state.md R44). -/
def Obligations.OnlyGetKeyWaits : Prop :=
  ∀ (i : Instr) (s t : State) (r : RegIx), s.status = .running → exec i s = .next t → t.status = .awaitingKey r →
    i = .getKey r

/-- Every instruction changes only what its rule says it writes: registers by 10_state.md R32, I by R33, the stack by R36,
the timers by R38, memory by 20_memory.md R71, the display by 44_display.md R225; the driver's ports never. That VF and I
stay where the source is silent are the spec's own decisions D9, D11, D12, D15, D16. -/
def Obligations.EveryInstructionKeepsItsFrame : Prop :=
  ∀ (i : Instr) (s t : State), exec i s = .next t → (i.frame s).Holds s t

/-- An instruction that is no jump, call, return or skip leaves PC at A + 2, unless it raises a fault, which leaves PC at
A (40_fetch_and_step.md R132). PC at a fault and during the key wait are the spec's own decisions D7 and D22. -/
def Obligations.SequentialInstructionsAdvancePc : Prop :=
  ∀ (i : Instr) (s t : State), s.status = .running → i.transfersControl = false → exec i s = .next t →
    t.pc.toNat = if t.status = .running ∨ (∃ r, t.status = .awaitingKey r) then (s.pc.toNat + 2) % 65536 else s.pc.toNat

/-- Of all instructions the key snapshot reaches only the two key tests and the random byte only `CXNN`: every other
instruction answers the same whatever the driver supplies (45_timers_keys_random.md R240, R241, R242, R245; 10_state.md R41,
R42). This is about instructions: the key-wait poll, which is none, reads the snapshot too (R246). That `FX0A` does not look
at the snapshot is the spec's own decision D21 (log entry 14); the ports are the model's own fields (log entry 1). -/
def Obligations.InputsReachOnlyTheirInstructions : Prop :=
  ∀ (i : Instr) (s t : State) (keys : Vector Bool 16) (rand : Byte), exec i s = .next t →
    ((∀ x, i ≠ .skipIfKey x) → (∀ x, i ≠ .skipIfNotKey x) → exec i { s with keys := keys } = .next { t with keys := keys }) ∧
    ((∀ x nn, i ≠ .randomAnd x nn) → exec i { s with rand := rand } = .next { t with rand := rand })

/-! ### Control flow -/

/-- `1NNN` sets PC to NNN, without a check (41_control_flow.md R150). The bit patterns are general knowledge in the spec
(log entry 15). -/
def Obligations.JumpSetsPc : Prop :=
  ∀ (nnn : Addr12) (s : State), decode (0x1#4 ++ nnn) = .ok (.jump nnn) ∧
    ∃ t, exec (.jump nnn) s = .next t ∧ t.pc.toNat = nnn.toNat ∧ Frame.Holds {} s t

/-- A jump to its own address changes nothing at all (40_fetch_and_step.md R139). -/
def Obligations.SelfJumpIsFixed : Prop :=
  ∀ (nnn : Addr12) (s : State), s.pc.toNat = nnn.toNat → exec (.jump nnn) s = .next s

/-- `BNNN` sets PC to NNN + V0, always V0; the sum is not masked to 12 bits, which is the spec's own decision D13
(41_control_flow.md R153). The bit patterns are general knowledge in the spec (log entry 15). -/
def Obligations.JumpWithOffsetAddsV0 : Prop :=
  ∀ (nnn : Addr12) (s : State), decode (0xB#4 ++ nnn) = .ok (.jumpWithOffset nnn) ∧
    ∃ t, exec (.jumpWithOffset nnn) s = .next t ∧ t.pc.toNat = nnn.toNat + (s.getV 0x0#4).toNat ∧ Frame.Holds {} s t

/-- `2NNN` with SP below 16 pushes A + 2 into slot SP, raises SP by one and jumps; every other slot is as before
(41_control_flow.md R152; 10_state.md R37). The pushed address and the slot order are the spec's own decisions D14 and
D28. -/
def Obligations.CallPushesTheReturnAddress : Prop :=
  ∀ (nnn : Addr12) (s : State), s.sp.val < 16 →
    ∃ t, exec (.call nnn) s = .next t ∧ t.pc.toNat = nnn.toNat ∧ t.sp.val = s.sp.val + 1 ∧
      (∀ (j : Nat) (h : j < 16), t.stack[j] = if j = s.sp.val then s.pc + 2 else s.stack[j]) ∧
      Frame.Holds { stack := true } s t

/-- `2NNN` with SP = 16 raises `StackOverflow` and changes nothing else (41_control_flow.md R152). That nothing else
changes is the spec's own decision D7. The bit patterns are general knowledge in the spec (log entry 15). -/
def Obligations.CallOverflows : Prop :=
  ∀ (nnn : Addr12) (s : State), s.sp.val = 16 →
    exec (.call nnn) s = .next { s with status := .faulted (.stackOverflow s.pc (0x2#4 ++ nnn)) }

/-- `00EE` with SP above 0 lowers SP by one and sets PC to the slot there, unchecked; every slot keeps its value
(41_control_flow.md R151; 10_state.md R37). The slot order is the spec's own decision D28. -/
def Obligations.ReturnPopsTheAddress : Prop :=
  ∀ s : State, 0 < s.sp.val →
    ∃ (t : State) (hj : t.sp.val < 16), exec .ret s = .next t ∧ t.sp.val + 1 = s.sp.val ∧ t.pc = s.stack[t.sp.val] ∧
      (∀ (j : Nat) (h : j < 16), t.stack[j] = s.stack[j]) ∧ Frame.Holds { stack := true } s t

/-- `00EE` with SP = 0 raises `StackUnderflow` and changes nothing else (41_control_flow.md R151). That nothing else
changes is the spec's own decision D7. The bit patterns are general knowledge in the spec (log entry 15). -/
def Obligations.ReturnUnderflows : Prop :=
  ∀ s : State, s.sp.val = 0 →
    exec .ret s = .next { s with status := .faulted (.stackUnderflow s.pc 0x00EE) }

/-- A return right after a call resumes after the call, with SP as before it (41_control_flow.md R151, R152). The pushed
address is the spec's own decision D14. -/
def Obligations.ReturnUndoesCall : Prop :=
  ∀ (nnn : Addr12) (s t : State), s.sp.val < 16 → exec (.call nnn) s = .next t →
    ∃ u, exec .ret t = .next u ∧ u.pc = s.pc + 2 ∧ u.sp = s.sp ∧ Frame.Holds { stack := true } s u

/-- `3XNN` skips where V[X] = NN and `4XNN` where it is not: PC is A + 4 or A + 2, modulo 2^16 (41_control_flow.md R154,
R155; 40_fetch_and_step.md R137). The bit patterns are general knowledge in the spec (log entry 15). -/
def Obligations.ImmediateSkips : Prop :=
  ∀ (x : RegIx) (nn : Byte) (s : State),
    (decode (0x3#4 ++ (x ++ nn : BitVec 12)) = .ok (.skipIfEqual x nn) ∧
      ∃ t, exec (.skipIfEqual x nn) s = .next t ∧ t.pc = (if s.getV x = nn then s.pc + 4 else s.pc + 2) ∧
        Frame.Holds {} s t) ∧
    (decode (0x4#4 ++ (x ++ nn : BitVec 12)) = .ok (.skipIfNotEqual x nn) ∧
      ∃ t, exec (.skipIfNotEqual x nn) s = .next t ∧ t.pc = (if s.getV x = nn then s.pc + 2 else s.pc + 4) ∧
        Frame.Holds {} s t)

/-- `5XY0` skips where V[X] = V[Y] and `9XY0` where it is not; with a fourth nibble that is not 0 neither word is an
instruction (41_control_flow.md R156, R157), which is the spec's own reading, decision D6 (log entry 14). The bit
patterns are general knowledge in the spec (log entry 15). -/
def Obligations.RegisterSkips : Prop :=
  ∀ (x y : RegIx) (s : State),
    (decode (0x5#4 ++ (x ++ (y ++ 0x0#4 : BitVec 8) : BitVec 12)) = .ok (.skipIfRegistersEqual x y) ∧
      ∃ t, exec (.skipIfRegistersEqual x y) s = .next t ∧ t.pc = (if s.getV x = s.getV y then s.pc + 4 else s.pc + 2) ∧
        Frame.Holds {} s t) ∧
    (∀ n : Nibble, n ≠ 0 → decode (0x5#4 ++ (x ++ (y ++ n : BitVec 8) : BitVec 12)) =
      .error (.unrecognized (0x5#4 ++ (x ++ (y ++ n : BitVec 8) : BitVec 12)))) ∧
    (decode (0x9#4 ++ (x ++ (y ++ 0x0#4 : BitVec 8) : BitVec 12)) = .ok (.skipIfRegistersNotEqual x y) ∧
      ∃ t, exec (.skipIfRegistersNotEqual x y) s = .next t ∧ t.pc = (if s.getV x = s.getV y then s.pc + 2 else s.pc + 4) ∧
        Frame.Holds {} s t) ∧
    (∀ n : Nibble, n ≠ 0 → decode (0x9#4 ++ (x ++ (y ++ n : BitVec 8) : BitVec 12)) =
      .error (.unrecognized (0x9#4 ++ (x ++ (y ++ n : BitVec 8) : BitVec 12))))

/-- `EX9E` skips where the key V[X] is pressed in this step's snapshot and `EXA1` where it is not, for V[X] up to 0x0F
(45_timers_keys_random.md R241, R242). The bit patterns are general knowledge in the spec (log entry 15). -/
def Obligations.KeySkips : Prop :=
  ∀ (x k : RegIx) (s : State), (s.getV x).toNat = k.toNat →
    (decode (0xE#4 ++ (x ++ 0x9E#8 : BitVec 12)) = .ok (.skipIfKey x) ∧
      ∃ t, exec (.skipIfKey x) s = .next t ∧ t.pc = (if s.key k = true then s.pc + 4 else s.pc + 2) ∧
        Frame.Holds {} s t) ∧
    (decode (0xE#4 ++ (x ++ 0xA1#8 : BitVec 12)) = .ok (.skipIfNotKey x) ∧
      ∃ t, exec (.skipIfNotKey x) s = .next t ∧ t.pc = (if s.key k = true then s.pc + 2 else s.pc + 4) ∧
        Frame.Holds {} s t)

/-- The key tests with V[X] above 0x0F raise `KeyIndexOutOfRange` with that value and change nothing else
(45_timers_keys_random.md R248). The fault is the spec's own decision D20. That nothing else changes is D7. The bit
patterns are general knowledge in the spec (log entry 15). -/
def Obligations.KeyIndexOutOfRangeFaults : Prop :=
  ∀ (x : RegIx) (s : State), 0x0F < (s.getV x).toNat →
    exec (.skipIfKey x) s = .next (s.setStatus
      (.faulted (.keyIndexOutOfRange s.pc (0xE#4 ++ (x ++ 0x9E#8 : BitVec 12)) (s.getV x)))) ∧
    exec (.skipIfNotKey x) s = .next (s.setStatus
      (.faulted (.keyIndexOutOfRange s.pc (0xE#4 ++ (x ++ 0xA1#8 : BitVec 12)) (s.getV x))))

/-! ### The ALU -/

/-- `6XNN` writes NN and `8XY0` V[Y] to V[X]; nothing else changes but PC (42_alu.md R175, R177). The bit patterns are
general knowledge in the spec (log entry 15). -/
def Obligations.RegisterSetAndCopy : Prop :=
  ∀ (x y : RegIx) (nn : Byte) (s : State),
    (decode (0x6#4 ++ (x ++ nn : BitVec 12)) = .ok (.setRegister x nn) ∧
      ∃ t, exec (.setRegister x nn) s = .next t ∧ t.getV x = nn ∧ t.pc = s.pc + 2 ∧ Frame.Holds { regs := [x] } s t) ∧
    (decode (0x8#4 ++ (x ++ (y ++ 0x0#4 : BitVec 8) : BitVec 12)) = .ok (.copyRegister x y) ∧
      ∃ t, exec (.copyRegister x y) s = .next t ∧ t.getV x = s.getV y ∧ t.pc = s.pc + 2 ∧
        Frame.Holds { regs := [x] } s t)

/-- `7XNN` adds NN to V[X] modulo 256; VF is not a flag of it, which is the spec's own decision D11 (42_alu.md R176). The
bit patterns are general knowledge in the spec (log entry 15). -/
def Obligations.AddImmediateWraps : Prop :=
  ∀ (x : RegIx) (nn : Byte) (s : State), decode (0x7#4 ++ (x ++ nn : BitVec 12)) = .ok (.addImmediate x nn) ∧
    ∃ t, exec (.addImmediate x nn) s = .next t ∧ (t.getV x).toNat = ((s.getV x).toNat + nn.toNat) % 256 ∧
      t.pc = s.pc + 2 ∧ Frame.Holds { regs := [x] } s t

/-- `8XY1`, `8XY2` and `8XY3` write the bitwise OR, AND and XOR of V[X] and V[Y] to V[X]; VF is not a flag of them, which
is the spec's own decision D12 (42_alu.md R178, R179, R180). The bit patterns are general knowledge in the spec (log entry
15). -/
def Obligations.BitwiseOperations : Prop :=
  ∀ (x y : RegIx) (s : State),
    (decode (0x8#4 ++ (x ++ (y ++ 0x1#4 : BitVec 8) : BitVec 12)) = .ok (.or x y) ∧
      ∃ t, exec (.or x y) s = .next t ∧ (∀ b, (t.getV x).getLsbD b = ((s.getV x).getLsbD b || (s.getV y).getLsbD b)) ∧
        t.pc = s.pc + 2 ∧ Frame.Holds { regs := [x] } s t) ∧
    (decode (0x8#4 ++ (x ++ (y ++ 0x2#4 : BitVec 8) : BitVec 12)) = .ok (.and x y) ∧
      ∃ t, exec (.and x y) s = .next t ∧ (∀ b, (t.getV x).getLsbD b = ((s.getV x).getLsbD b && (s.getV y).getLsbD b)) ∧
        t.pc = s.pc + 2 ∧ Frame.Holds { regs := [x] } s t) ∧
    (decode (0x8#4 ++ (x ++ (y ++ 0x3#4 : BitVec 8) : BitVec 12)) = .ok (.xor x y) ∧
      ∃ t, exec (.xor x y) s = .next t ∧ (∀ b, (t.getV x).getLsbD b = ((s.getV x).getLsbD b ^^ (s.getV y).getLsbD b)) ∧
        t.pc = s.pc + 2 ∧ Frame.Holds { regs := [x] } s t)

/-- `8XY4` writes (V[X] + V[Y]) mod 256 to V[X] and the carry to VF; with X = 0xF, VF holds the carry, which is the spec's
own decision D10 (42_alu.md R181). The bit patterns are general knowledge in the spec (log entry 15). -/
def Obligations.AddRegistersCarries : Prop :=
  ∀ (x y : RegIx) (s : State),
    decode (0x8#4 ++ (x ++ (y ++ 0x4#4 : BitVec 8) : BitVec 12)) = .ok (.addRegisters x y) ∧
    ∃ t, exec (.addRegisters x y) s = .next t ∧
      (x ≠ 0xF#4 → (t.getV x).toNat = ((s.getV x).toNat + (s.getV y).toNat) % 256) ∧
      (t.getV 0xF#4).toNat = (if 256 ≤ (s.getV x).toNat + (s.getV y).toNat then 1 else 0) ∧
      t.pc = s.pc + 2 ∧ Frame.Holds { regs := [x, 0xF#4] } s t

/-- `8XY5` and `8XY7` write the difference modulo 256 to V[X] and never a flag to VF (42_alu.md R173, R182, R183). That VF
is left as it was, and not written 0, is the spec's own decision D9. The bit patterns are general knowledge in the spec
(log entry 15). -/
def Obligations.SubtractionsWrapWithoutFlag : Prop :=
  ∀ (x y : RegIx) (s : State),
    (decode (0x8#4 ++ (x ++ (y ++ 0x5#4 : BitVec 8) : BitVec 12)) = .ok (.subtract x y) ∧
      ∃ t, exec (.subtract x y) s = .next t ∧ (t.getV x).toNat = ((s.getV x).toNat + 256 - (s.getV y).toNat) % 256 ∧
        t.pc = s.pc + 2 ∧ Frame.Holds { regs := [x] } s t) ∧
    (decode (0x8#4 ++ (x ++ (y ++ 0x7#4 : BitVec 8) : BitVec 12)) = .ok (.reverseSubtract x y) ∧
      ∃ t, exec (.reverseSubtract x y) s = .next t ∧ (t.getV x).toNat = ((s.getV y).toNat + 256 - (s.getV x).toNat) % 256 ∧
        t.pc = s.pc + 2 ∧ Frame.Holds { regs := [x] } s t)

/-- `8XY6` writes V[Y] shifted right by one to V[X] and bit 0 of the old V[Y] to VF, last (42_alu.md R184; with X = 0xF
the order is the spec's own decision D10). The bit patterns are general knowledge in the spec (log entry 15). -/
def Obligations.ShiftRightHalves : Prop :=
  ∀ (x y : RegIx) (s : State),
    decode (0x8#4 ++ (x ++ (y ++ 0x6#4 : BitVec 8) : BitVec 12)) = .ok (.shiftRight x y) ∧
    ∃ t, exec (.shiftRight x y) s = .next t ∧
      (x ≠ 0xF#4 → (t.getV x).toNat = (s.getV y).toNat / 2) ∧ (t.getV 0xF#4).toNat = (s.getV y).toNat % 2 ∧
      t.pc = s.pc + 2 ∧ Frame.Holds { regs := [x, 0xF#4] } s t

/-- `8XYE` writes V[Y] shifted left by one, modulo 256, to V[X] and bit 7 of the old V[Y] to VF, last (42_alu.md R185;
with X = 0xF the order is the spec's own decision D10). The bit patterns are general knowledge in the spec (log entry 15).
-/
def Obligations.ShiftLeftDoubles : Prop :=
  ∀ (x y : RegIx) (s : State),
    decode (0x8#4 ++ (x ++ (y ++ 0xE#4 : BitVec 8) : BitVec 12)) = .ok (.shiftLeft x y) ∧
    ∃ t, exec (.shiftLeft x y) s = .next t ∧
      (x ≠ 0xF#4 → (t.getV x).toNat = 2 * (s.getV y).toNat % 256) ∧ (t.getV 0xF#4).toNat = (s.getV y).toNat / 128 ∧
      t.pc = s.pc + 2 ∧ Frame.Holds { regs := [x, 0xF#4] } s t

/-! ### Index register and memory -/

/-- `ANNN` sets I to NNN and `FX1E` adds V[X] to I modulo 2^16, without a flag and without a fault; for `FX1E` the width
and the flag are the spec's own decision D15 (43_index_memory.md R200, R201). The bit patterns are general knowledge in
the spec (log entry 15). -/
def Obligations.IndexSetAndAdd : Prop :=
  ∀ (nnn : Addr12) (x : RegIx) (s : State),
    (decode (0xA#4 ++ nnn) = .ok (.setIndex nnn) ∧
      ∃ t, exec (.setIndex nnn) s = .next t ∧ t.i.toNat = nnn.toNat ∧ t.pc = s.pc + 2 ∧
        Frame.Holds { index := true } s t) ∧
    (decode (0xF#4 ++ (x ++ 0x1E#8 : BitVec 12)) = .ok (.addToIndex x) ∧
      ∃ t, exec (.addToIndex x) s = .next t ∧ t.i.toNat = (s.i.toNat + (s.getV x).toNat) % 65536 ∧ t.pc = s.pc + 2 ∧
        Frame.Holds { index := true } s t)

/-- `FX29` sets I to the address of the glyph of V[X]'s low nibble (43_index_memory.md R202). The bit patterns are general
knowledge in the spec (log entry 15). -/
def Obligations.FontCharacterAddressesTheGlyph : Prop :=
  ∀ (x : RegIx) (s : State), decode (0xF#4 ++ (x ++ 0x29#8 : BitVec 12)) = .ok (.fontCharacter x) ∧
    ∃ t, exec (.fontCharacter x) s = .next t ∧ t.i.toNat = 0x050 + 5 * ((s.getV x).toNat % 16) ∧ t.pc = s.pc + 2 ∧
      Frame.Holds { index := true } s t

/-- `FX33`, where I + 2 exists, writes the hundreds, tens and units of V[X] to I, I+1, I+2, and no other byte
(43_index_memory.md R203). Memory is in canonical form, as `StepKeepsInv` says it stays. -/
def Obligations.DecimalDigitsStored : Prop :=
  ∀ (x : RegIx) (s : State), s.mem.wf → s.i.toNat + 2 ≤ 0xFFF →
    ∃ t, exec (.binaryDecimalConversion x) s = .next t ∧
      (t.memRead s.i.toNat).toNat = (s.getV x).toNat / 100 ∧
      (t.memRead (s.i.toNat + 1)).toNat = (s.getV x).toNat / 10 % 10 ∧
      (t.memRead (s.i.toNat + 2)).toNat = (s.getV x).toNat % 10 ∧
      t.pc = s.pc + 2 ∧ Frame.Holds { stored := s.blockAddrs 3 } s t

/-- `FX55`, where I + X exists, stores V0..VX inclusive at I..I+X, and no other byte; I is unchanged, which is the spec's own
decision D16 (43_index_memory.md R204). -/
def Obligations.StoreMemoryStoresTheBlock : Prop :=
  ∀ (x : RegIx) (s : State), s.mem.wf → s.i.toNat + x.toNat ≤ 0xFFF →
    ∃ t, exec (.storeMemory x) s = .next t ∧
      (∀ k : Nat, k ≤ x.toNat → t.memRead (s.i.toNat + k) = s.getV (BitVec.ofNat 4 k)) ∧
      t.pc = s.pc + 2 ∧ Frame.Holds { stored := s.blockAddrs (blockLength x) } s t

/-- `FX65`, where I + X exists, loads V0..VX inclusive from I..I+X, and no other register; I is unchanged, which is the
spec's own decision D16 (43_index_memory.md R205). -/
def Obligations.LoadMemoryLoadsTheBlock : Prop :=
  ∀ (x : RegIx) (s : State), s.i.toNat + x.toNat ≤ 0xFFF →
    ∃ t, exec (.loadMemory x) s = .next t ∧
      (∀ r : RegIx, t.getV r = if r.toNat ≤ x.toNat then s.memRead (s.i.toNat + r.toNat) else s.getV r) ∧
      t.pc = s.pc + 2 ∧ Frame.Holds { regs := upTo x } s t

/-- A block that reaches past 0xFFF raises `MemoryAccessViolation` at its lowest address outside, and nothing else
changes: `FX33`, `FX55`, `FX65`, and `DXYN` with N ≥ 1, clipped rows included (20_memory.md R73, R76; 44_display.md R221).
That the check comes before any effect is the spec's own decision D8, and D17 for the clipped rows; that nothing else
changes, so that PC stays A, is D7 (log entry 14). The bit patterns are general knowledge in the spec (log entry 15). -/
def Obligations.BlockOutsideMemoryFaults : Prop :=
  ∀ (x y : RegIx) (n : Nibble) (s : State),
    (0xFFF < s.i.toNat + 2 → exec (.binaryDecimalConversion x) s = .next (s.setStatus (.faulted
      (.memoryAccessViolation s.pc (some (0xF#4 ++ (x ++ 0x33#8 : BitVec 12)))
        (if 0xFFF < s.i.toNat then s.i.toNat else 0x1000))))) ∧
    (0xFFF < s.i.toNat + x.toNat → exec (.storeMemory x) s = .next (s.setStatus (.faulted
      (.memoryAccessViolation s.pc (some (0xF#4 ++ (x ++ 0x55#8 : BitVec 12)))
        (if 0xFFF < s.i.toNat then s.i.toNat else 0x1000))))) ∧
    (0xFFF < s.i.toNat + x.toNat → exec (.loadMemory x) s = .next (s.setStatus (.faulted
      (.memoryAccessViolation s.pc (some (0xF#4 ++ (x ++ 0x65#8 : BitVec 12)))
        (if 0xFFF < s.i.toNat then s.i.toNat else 0x1000))))) ∧
    (0 < n.toNat → 0xFFF < s.i.toNat + n.toNat - 1 → exec (.draw x y n) s = .next (s.setStatus (.faulted
      (.memoryAccessViolation s.pc (some (0xD#4 ++ (x ++ (y ++ n : BitVec 8) : BitVec 12)))
        (if 0xFFF < s.i.toNat then s.i.toNat else 0x1000)))))

/-- A block stored by `FX55` and loaded by `FX65` into a different machine that holds the same bytes and the same I gives
back V0..VX (43_index_memory.md R205). -/
def Obligations.StoreThenLoadRoundTrip : Prop :=
  ∀ (x : RegIx) (s t u : State), s.mem.wf → s.i.toNat + x.toNat ≤ 0xFFF → exec (.storeMemory x) s = .next t →
    u.i = s.i → (∀ k : Nat, k ≤ x.toNat → u.memRead (s.i.toNat + k) = t.memRead (s.i.toNat + k)) →
    ∃ w, exec (.loadMemory x) u = .next w ∧ ∀ r : RegIx, r.toNat ≤ x.toNat → w.getV r = s.getV r

/-! ### The display -/

/-- `00E0` turns every pixel off; VF and everything else but PC are as before (44_display.md R220). -/
def Obligations.ClearScreenBlanks : Prop :=
  decode 0x00E0#16 = .ok .clearScreen ∧ ∀ s : State,
    ∃ t, exec .clearScreen s = .next t ∧ (∀ x y, t.pix x y = false) ∧ t.pc = s.pc + 2 ∧
      Frame.Holds { screen := true } s t

/-- `DXYN`, where its N rows exist, XORs the sprite onto the screen from (V[X] mod 64, V[Y] mod 32), dropping what lies past
an edge, and VF is 1 where some lit pixel went off, else 0; N = 0 draws nothing and clears VF (44_display.md R221, R222,
R223). The coordinates read before VF is cleared, and N = 0, are the spec's own decisions D19 and D18. -/
def Obligations.DrawXorsTheSprite : Prop :=
  ∀ (x y : RegIx) (n : Nibble) (s : State), n = 0 ∨ s.i.toNat + n.toNat - 1 ≤ 0xFFF →
    ∃ t, exec (.draw x y n) s = .next t ∧
      (∀ c d, t.pix c d = (s.pix c d ^^
        s.spriteBit ((s.getV x).toNat % 64) ((s.getV y).toNat % 32) n.toNat c d)) ∧
      ((∃ c d, s.pix c d = true ∧ t.pix c d = false) → t.getV 0xF#4 = 1) ∧
      ((∀ c d, s.pix c d = true → t.pix c d = true) → t.getV 0xF#4 = 0) ∧
      t.pc = s.pc + 2 ∧ Frame.Holds { regs := [0xF#4], screen := true } s t

/-- Drawing the same sprite at the same location twice gives the first screen back; and where no pixel of it was lit and
one of its bits is on the screen, the first draw leaves VF = 0 and the second sets it (44_display.md R221, R223). -/
def Obligations.DrawTwiceRestoresTheScreen : Prop :=
  ∀ (x y : RegIx) (n : Nibble) (s t u : State), n = 0 ∨ s.i.toNat + n.toNat - 1 ≤ 0xFFF →
    exec (.draw x y n) s = .next t → exec (.draw x y n) t = .next u →
    t.originX x = s.originX x → t.originY y = s.originY y →
    (∀ c d, u.pix c d = s.pix c d) ∧
    ((∃ c d, s.spriteBit (s.originX x) (s.originY y) n.toNat c d = true) →
      (∀ c d, s.spriteBit (s.originX x) (s.originY y) n.toNat c d = true → s.pix c d = false) →
      t.getV 0xF#4 = 0 ∧ u.getV 0xF#4 = 1)

/-! ### Random, keys and timers -/

/-- `CXNN` writes the step's random byte AND NN to V[X], for every value of the random byte (45_timers_keys_random.md
R240). The byte stands on the `rand` port (log entry 1). The bit patterns are general knowledge in the spec (log entry
15). -/
def Obligations.RandomAndMasks : Prop :=
  ∀ (x : RegIx) (nn : Byte) (s : State), decode (0xC#4 ++ (x ++ nn : BitVec 12)) = .ok (.randomAnd x nn) ∧
    ∃ t, exec (.randomAnd x nn) s = .next t ∧
      (∀ b, (t.getV x).getLsbD b = (s.rand.getLsbD b && nn.getLsbD b)) ∧ t.pc = s.pc + 2 ∧
      Frame.Holds { regs := [x] } s t

/-- `FX07` reads DT into V[X] (45_timers_keys_random.md R243). The bit patterns are general knowledge in the spec (log
entry 15). -/
def Obligations.DelayTimerRead : Prop :=
  ∀ (x : RegIx) (s : State), decode (0xF#4 ++ (x ++ 0x07#8 : BitVec 12)) = .ok (.getDelayTimer x) ∧
    ∃ t, exec (.getDelayTimer x) s = .next t ∧ t.getV x = s.dt ∧ t.pc = s.pc + 2 ∧ Frame.Holds { regs := [x] } s t

/-- `FX15` writes V[X] to DT and `FX18` writes V[X] to ST (45_timers_keys_random.md R244, R247). The bit patterns are
general knowledge in the spec (log entry 15). -/
def Obligations.TimersWritten : Prop :=
  ∀ (x : RegIx) (s : State),
    (decode (0xF#4 ++ (x ++ 0x15#8 : BitVec 12)) = .ok (.setDelayTimer x) ∧
      ∃ t, exec (.setDelayTimer x) s = .next t ∧ t.dt = s.getV x ∧ t.pc = s.pc + 2 ∧ Frame.Holds { delay := true } s t) ∧
    (decode (0xF#4 ++ (x ++ 0x18#8 : BitVec 12)) = .ok (.setSoundTimer x) ∧
      ∃ t, exec (.setSoundTimer x) s = .next t ∧ t.st = s.getV x ∧ t.pc = s.pc + 2 ∧ Frame.Holds { sound := true } s t)

/-- `FX0A` enters the wait for V[X], whatever the key snapshot, with PC past the instruction and no register written
(45_timers_keys_random.md R245; the spec's own decisions D21 and D22). The bit patterns are general knowledge in the spec
(log entry 15). -/
def Obligations.GetKeyEntersTheWait : Prop :=
  ∀ (x : RegIx) (s : State), decode (0xF#4 ++ (x ++ 0x0A#8 : BitVec 12)) = .ok (.getKey x) ∧
    ∃ t, exec (.getKey x) s = .next t ∧ t.status = .awaitingKey x ∧ t.pc = s.pc + 2 ∧
      Frame.Holds { status := true } s t

/-! ### Boot -/

/-- `load_fonts` puts the 80 bytes of any font table at 0x050..0x09F, changes nothing else, and again changes nothing
(70_reset_and_hazards.md R294; the table is the parameter of D25). -/
def Obligations.FontsLoaded : Prop :=
  ∀ (font : Vector Byte 80) (s : State), s.mem.wf →
    (∀ (j : Nat) (h : j < 80), (s.loadFonts font).memRead (0x050 + j) = font[j]) ∧
    (s.loadFonts font).pc = s.pc ∧
    Frame.Holds { stored := (List.range 80).map (0x050 + ·) } s (s.loadFonts font) ∧
    (∀ a, ((s.loadFonts font).loadFonts font).memRead a = (s.loadFonts font).memRead a)

/-- `load_program` fails with `RomTooLarge` for more than 3584 bytes, and otherwise puts the bytes at 0x200 on and changes
nothing else (70_reset_and_hazards.md R295; 90_conflicts.md C1). -/
def Obligations.ProgramLoaded : Prop :=
  ∀ (bytes : List Byte) (s : State), s.mem.wf →
    (4096 - 0x200 < bytes.length → s.loadProgram bytes = .error (.romTooLarge bytes.length)) ∧
    (bytes.length ≤ 4096 - 0x200 → ∃ t, s.loadProgram bytes = .ok t ∧
      (∀ (j : Nat) (h : j < bytes.length), t.memRead (0x200 + j) = bytes[j]) ∧ t.pc = s.pc ∧
      Frame.Holds { stored := (List.range bytes.length).map (0x200 + ·) } s t)
end

