-- ==== Sys2Proof/Machine/Assembly.lean ====
section
/-! DEFINITION. The assembler's spelling of an instruction (30_encoding.md R113; D29): notation for the 34 words, with no
pseudo-instruction and no effect on the machine. -/

namespace Sys2Proof

/-- One hex digit of a 4-bit value, in capitals. -/
def hexDigit (n : BitVec 4) : String :=
  match n.toNat with
  | 10 => "A"
  | 11 => "B"
  | 12 => "C"
  | 13 => "D"
  | 14 => "E"
  | 15 => "F"
  | k => Nat.repr k

/-- `Vx`: a register V0..VF, its index a hex digit. -/
def asmReg (x : RegIx) : String := "V" ++ hexDigit x

/-- `byte`: an 8-bit hex value of two digits. -/
def asmByte (nn : Byte) : String := "0x" ++ hexDigit (nn.extractLsb' 4 4) ++ hexDigit (nn.extractLsb' 0 4)

/-- `addr`: a 12-bit hex value of three digits. -/
def asmAddr (nnn : Addr12) : String :=
  "0x" ++ hexDigit (nnn.extractLsb' 8 4) ++ hexDigit (nnn.extractLsb' 4 4) ++ hexDigit (nnn.extractLsb' 0 4)

/-- `nibble`: a 4-bit value, spelled in decimal. DESIGN CHOICE (log entry 17): the spec names no base. -/
def asmNibble (n : Nibble) : String := Nat.repr n.toNat

/-- The spelling of an instruction, operands separated by commas. -/
def Instr.asm : Instr → String
  | .clearScreen => "CLS"
  | .ret => "RET"
  | .jump nnn => "JP " ++ asmAddr nnn
  | .call nnn => "CALL " ++ asmAddr nnn
  | .skipIfEqual x nn => "SE " ++ asmReg x ++ ", " ++ asmByte nn
  | .skipIfNotEqual x nn => "SNE " ++ asmReg x ++ ", " ++ asmByte nn
  | .skipIfRegistersEqual x y => "SE " ++ asmReg x ++ ", " ++ asmReg y
  | .setRegister x nn => "LD " ++ asmReg x ++ ", " ++ asmByte nn
  | .addImmediate x nn => "ADD " ++ asmReg x ++ ", " ++ asmByte nn
  | .copyRegister x y => "LD " ++ asmReg x ++ ", " ++ asmReg y
  | .or x y => "OR " ++ asmReg x ++ ", " ++ asmReg y
  | .and x y => "AND " ++ asmReg x ++ ", " ++ asmReg y
  | .xor x y => "XOR " ++ asmReg x ++ ", " ++ asmReg y
  | .addRegisters x y => "ADD " ++ asmReg x ++ ", " ++ asmReg y
  | .subtract x y => "SUB " ++ asmReg x ++ ", " ++ asmReg y
  | .shiftRight x y => "SHR " ++ asmReg x ++ ", " ++ asmReg y
  | .reverseSubtract x y => "SUBN " ++ asmReg x ++ ", " ++ asmReg y
  | .shiftLeft x y => "SHL " ++ asmReg x ++ ", " ++ asmReg y
  | .skipIfRegistersNotEqual x y => "SNE " ++ asmReg x ++ ", " ++ asmReg y
  | .setIndex nnn => "LD I, " ++ asmAddr nnn
  | .jumpWithOffset nnn => "JP V0, " ++ asmAddr nnn
  | .randomAnd x nn => "RND " ++ asmReg x ++ ", " ++ asmByte nn
  | .draw x y n => "DRW " ++ asmReg x ++ ", " ++ asmReg y ++ ", " ++ asmNibble n
  | .skipIfKey x => "SKP " ++ asmReg x
  | .skipIfNotKey x => "SKNP " ++ asmReg x
  | .getDelayTimer x => "LD " ++ asmReg x ++ ", DT"
  | .getKey x => "LD " ++ asmReg x ++ ", K"
  | .setDelayTimer x => "LD DT, " ++ asmReg x
  | .setSoundTimer x => "LD ST, " ++ asmReg x
  | .addToIndex x => "ADD I, " ++ asmReg x
  | .fontCharacter x => "LD F, " ++ asmReg x
  | .binaryDecimalConversion x => "LD B, " ++ asmReg x
  | .storeMemory x => "LD [I], " ++ asmReg x
  | .loadMemory x => "LD " ++ asmReg x ++ ", [I]"

end Sys2Proof
end

