-- ==== Sys2Proof/Tests/Slice0.lean ====
section
/-! SUPPORT. Tests of the model: what is refused as ill-formed, words written out from the encodings of spec/30_encoding.md and of
each instruction's rule, single steps with the results spec/95_test_vectors.md gives (the row's id stands beside each), and for
every statement with hypotheses a witness that meets them. -/

namespace Sys2Proof.Tests

open Sys2Proof.Machine

/-- What is read of the next state; none where the step stops. -/
def after {α : Type} (o : Host.Outcome State Fault Refusal) (f : State → α) : Option α :=
  match o with
  | .next s => some (f s)
  | _ => none

/-- The machine after reset with a word at 0x200. -/
def ready (w : Nat) : State := State.reset.withFetchWord 16 w

/-- A key snapshot with no key pressed. -/
def noKeys : Vector Bool 16 := Vector.replicate 16 false

/-- The instruction a word decodes to, if any. -/
def decoded (w : Word) : Option Instr := (decode w).toOption

/-! ### Ill-formed terms are refused -/

/-- 2.2 of the vectors: words of families 0, 5, 8, 9, E and F that are no instruction. -/
theorem test_ill_formed_words :
    wellFormedWord 0x0000 = false ∧ wellFormedWord 0x0123 = false ∧ wellFormedWord 0x5231 = false ∧
    wellFormedWord 0x8AB8 = false ∧ wellFormedWord 0x800F = false ∧ wellFormedWord 0x900A = false ∧
    wellFormedWord 0xE09F = false ∧ wellFormedWord 0xF0FF = false ∧ wellFormedWord 0xF00B = false := by decide

theorem test_well_formed_words :
    wellFormedWord 0x00E0 = true ∧ wellFormedWord 0x5230 = true ∧ wellFormedWord 0xFF65 = true := by decide

/-- L2 and L3: 3584 bytes fit, 3585 do not. -/
theorem test_ill_formed_program :
    wellFormedProgram (List.replicate 3584 0) = true ∧ wellFormedProgram (List.replicate 3585 0) = false := by
  exact ⟨decide_eq_true (List.length_replicate.le), decide_eq_false (by rw [List.length_replicate]; decide)⟩

/-- 2.2: the decoder rejects the same words by name. -/
theorem test_decode_rejects :
    decode 0x0000 = .error (.unrecognized 0x0000) ∧ decode 0x0123 = .error (.unrecognized 0x0123) ∧
    decode 0x5231 = .error (.unrecognized 0x5231) ∧ decode 0x8AB8 = .error (.unrecognized 0x8AB8) ∧
    decode 0x800F = .error (.unrecognized 0x800F) ∧ decode 0x900A = .error (.unrecognized 0x900A) ∧
    decode 0xE09F = .error (.unrecognized 0xE09F) ∧ decode 0xF0FF = .error (.unrecognized 0xF0FF) ∧
    decode 0xF00B = .error (.unrecognized 0xF00B) := by decide

theorem test_decode_truncated : decodeBytes [] = .error .truncated ∧ decodeBytes [0x12] = .error .truncated := by decide

/-- The rest of the bytes is handed back. -/
theorem test_decode_bytes : decodeBytes [0xD1, 0x23, 0x77] = .ok (.draw 1 2 3, [0x77]) := by decide

/-! ### Words written out from the "Encoding" line of each rule, every constructor -/

theorem test_decode_control :
    decoded 0b0000000011101110 = some .ret ∧                             -- R151: 0000 0000 1110 1110
    decoded 0b0001101010111100 = some (.jump 0xABC) ∧                    -- R150: 0001 nnnn nnnn nnnn
    decoded 0b0010101010111101 = some (.call 0xABD) ∧                    -- R152: 0010 nnnn nnnn nnnn
    decoded 0b0011000101000010 = some (.skipIfEqual 1 0x42) ∧            -- R154: 0011 xxxx nnnn nnnn
    decoded 0b0100001001000011 = some (.skipIfNotEqual 2 0x43) ∧         -- R155: 0100 xxxx nnnn nnnn
    decoded 0b0101001000110000 = some (.skipIfRegistersEqual 2 3) ∧      -- R156: 0101 xxxx yyyy 0000
    decoded 0b1001010001010000 = some (.skipIfRegistersNotEqual 4 5) ∧   -- R157: 1001 xxxx yyyy 0000
    decoded 0b1011111111101101 = some (.jumpWithOffset 0xFED) := by      -- R153: 1011 nnnn nnnn nnnn
  decide

theorem test_decode_alu :
    decoded 0b0110101000101011 = some (.setRegister 0xA 0x2B) ∧          -- R175: 0110 xxxx nnnn nnnn
    decoded 0b0111000111111111 = some (.addImmediate 1 0xFF) ∧           -- R176: 0111 xxxx nnnn nnnn
    decoded 0b1000110111100000 = some (.copyRegister 0xD 0xE) ∧          -- R177: 1000 xxxx yyyy 0000
    decoded 0b1000001101000001 = some (.or 3 4) ∧                        -- R178: ... 0001
    decoded 0b1000001101000010 = some (.and 3 4) ∧                       -- R179: ... 0010
    decoded 0b1000001101000011 = some (.xor 3 4) ∧                       -- R180: ... 0011
    decoded 0b1000001101000100 = some (.addRegisters 3 4) ∧              -- R181: ... 0100
    decoded 0b1000001101000101 = some (.subtract 3 4) ∧                  -- R182: ... 0101
    decoded 0b1000001101000110 = some (.shiftRight 3 4) ∧                -- R184: ... 0110
    decoded 0b1000001101000111 = some (.reverseSubtract 3 4) ∧           -- R183: ... 0111
    decoded 0b1000001101001110 = some (.shiftLeft 3 4) := by             -- R185: ... 1110
  decide

theorem test_decode_memory_display :
    decoded 0b1010000100100011 = some (.setIndex 0x123) ∧                -- R200: 1010 nnnn nnnn nnnn
    decoded 0b1111011000011110 = some (.addToIndex 6) ∧                  -- R201: 1111 xxxx 0001 1110
    decoded 0b1111011100101001 = some (.fontCharacter 7) ∧               -- R202: 1111 xxxx 0010 1001
    decoded 0b1111100000110011 = some (.binaryDecimalConversion 8) ∧     -- R203: 1111 xxxx 0011 0011
    decoded 0b1111100101010101 = some (.storeMemory 9) ∧                 -- R204: 1111 xxxx 0101 0101
    decoded 0b1111101001100101 = some (.loadMemory 0xA) ∧                -- R205: 1111 xxxx 0110 0101
    decoded 0b0000000011100000 = some .clearScreen ∧                     -- R220: 0000 0000 1110 0000
    decoded 0b1101000100100011 = some (.draw 1 2 3) := by                -- R221: 1101 xxxx yyyy nnnn
  decide

theorem test_decode_devices :
    decoded 0b1100000100001111 = some (.randomAnd 1 0x0F) ∧              -- R240: 1100 xxxx nnnn nnnn
    decoded 0b1110010110011110 = some (.skipIfKey 5) ∧                   -- R241: 1110 xxxx 1001 1110
    decoded 0b1110011010100001 = some (.skipIfNotKey 6) ∧                -- R242: 1110 xxxx 1010 0001
    decoded 0b1111001000000111 = some (.getDelayTimer 2) ∧               -- R243: 1111 xxxx 0000 0111
    decoded 0b1111001100001010 = some (.getKey 3) ∧                      -- R245: 1111 xxxx 0000 1010
    decoded 0b1111010000010101 = some (.setDelayTimer 4) ∧               -- R244: 1111 xxxx 0001 0101
    decoded 0b1111010100011000 = some (.setSoundTimer 5) := by           -- R247: 1111 xxxx 0001 1000
  decide

/-- The encoder writes the same words. -/
theorem test_encode :
    encode (.draw 1 2 3) = 0xD123 ∧ encode .clearScreen = 0x00E0 ∧ encode (.skipIfRegistersEqual 2 3) = 0x5230 ∧
    encode (.jump 0xABC) = 0x1ABC ∧ encode (.loadMemory 0xA) = 0xFA65 ∧ encode (.skipIfNotKey 6) = 0xE6A1 := by decide

/-- The table's word, laid out in memory high byte first, reaches the decoder whole. -/
theorem test_decode_table_word :
    decodeTableWord 16 0x6A2B = some (.setRegister 0xA 0x2B) ∧ decodeTableWord 16 0x8AB8 = none := by decide

/-- Lines of the programs P1 to P4: the words of the left column are spelled as in the right one. -/
theorem test_assembly :
    (decoded 0x6105).map Instr.asm = some "LD V1, 0x05" ∧ (decoded 0x2208).map Instr.asm = some "CALL 0x208" ∧
    (decoded 0xA310).map Instr.asm = some "LD I, 0x310" ∧ (decoded 0xF155).map Instr.asm = some "LD [I], V1" ∧
    (decoded 0xD005).map Instr.asm = some "DRW V0, V0, 5" ∧ (decoded 0x7A02).map Instr.asm = some "ADD VA, 0x02" := by
  decide +kernel

/-! ### Fetch and step -/

/-- F2 and F3: the last word of memory is fetched, and the fetch after it faults. -/
theorem test_fetch_last_word :
    after (step ((((State.reset.memWrite 0xFFE 0x61).memWrite 0xFFF 0x23).setPc 0xFFE)))
      (fun t => (t.getV 1, t.pc, t.status)) = some (0x23, 0x1000, .running) := by decide

theorem test_fetch_outside :
    after (step (State.reset.setPc 0x1000)) (fun t => (t.pc, t.status)) =
      some (0x1000, .faulted (.memoryAccessViolation 0x1000 none 0x1000)) := by decide

/-- F4: half of the word outside. -/
theorem test_fetch_half_outside :
    after (step (State.reset.setPc 0xFFF)) (fun t => (t.pc, t.status)) =
      some (0xFFF, .faulted (.memoryAccessViolation 0xFFF none 0x1000)) := by decide

/-- F5: an odd PC. -/
theorem test_fetch_odd :
    after (step ((((State.reset.memWrite 0x201 0x61).memWrite 0x202 0x23).setPc 0x201)))
      (fun t => (t.getV 1, t.pc)) = some (0x23, 0x203) := by decide

/-- S10: an unrecognized word faults. -/
theorem test_unrecognized :
    after (step (ready 0x8AB8)) (fun t => (t.pc, t.status)) = some (0x200, .faulted (.invalidOpcode 0x200 0x8AB8)) := by decide

/-- F6 and T6: a faulted machine keeps its fault, and its timers still count. -/
theorem test_faulted_step :
    after (step { ready 0x6123 with status := .faulted (.stackUnderflow 0x200 0x00EE), dt := 2, st := 1, ticks := 1 })
      (fun t => (t.dt, t.st, t.getV 1, t.pc, t.status)) =
      some (1, 0, 0, 0x200, .faulted (.stackUnderflow 0x200 0x00EE)) := by decide

/-- K1, between its second and third step: two ticks take DT from 5 to 3 while the wait goes on. -/
theorem test_key_wait_ticks :
    after (step { State.reset with status := .awaitingKey 3, keys := noKeys, dt := 5, ticks := 2 })
      (fun t => (t.dt, t.pc, t.status)) = some (3, 0x200, .awaitingKey 3) := by decide

/-- 70_reset_and_hazards.md R302: the driver may supply any keys and any byte for the first step, so reset and boot fix
neither. -/
theorem test_first_inputs_free :
    (State.reset.keys, State.reset.rand) = (Config.freeKeys 0, Config.freeRand 0) ∧
    ∀ font t, State.boot font [] = .ok t → (t.keys, t.rand) = (Config.freeKeys 0, Config.freeRand 0) := by
  refine ⟨rfl, fun font t h => ?_⟩
  cases h
  rfl

/-- T4 and T5. -/
theorem test_tick :
    ((State.reset.setDt 0x01).tick.dt, (State.reset.setDt 0x01).tick.st, State.reset.tick.dt) = (0, 0, 0) := by decide

/-- A word placed at reset runs in the next step (log entry 10). -/
theorem test_placed_word_runs :
    step (ready 0x6A2B) = endStep (exec (.setRegister 0xA 0x2B) (ready 0x6A2B)) := by rfl

/-! ### Control flow -/

/-- J1. -/
theorem test_jump : after (step (ready 0x1ABC)) (·.pc) = some 0xABC := by decide
/-- F7. -/
theorem test_jump_self : after (step (ready 0x1200)) (·.pc) = some 0x200 := by decide
/-- J2. -/
theorem test_jump_offset : after (step ((ready 0xB300).setV 0 0x10)) (·.pc) = some 0x310 := by decide
/-- J3. -/
theorem test_jump_offset_unmasked :
    after (step ((ready 0xBFFF).setV 0 0xFF)) (fun t => (t.pc, t.status)) = some (0x10FE, .running) := by decide
/-- J4. -/
theorem test_call :
    after (step (ready 0x2ABC)) (fun t => (t.pc, t.sp.val, t.stack[0])) = some (0xABC, 1, 0x202) := by decide
/-- J6. -/
theorem test_call_overflow :
    after (step { ready 0x2ABC with sp := 16 }) (fun t => (t.pc, t.sp.val, t.status)) =
      some (0x200, 16, .faulted (.stackOverflow 0x200 0x2ABC)) := by decide
/-- J7. -/
theorem test_return :
    after (step { ready 0x00EE with sp := 1, stack := State.reset.stack.set 0 0x345 })
      (fun t => (t.pc, t.sp.val, t.stack[0])) = some (0x345, 0, 0x345) := by decide
/-- J8. -/
theorem test_return_underflow :
    after (step (ready 0x00EE)) (fun t => (t.pc, t.status)) = some (0x200, .faulted (.stackUnderflow 0x200 0x00EE)) := by
  decide
/-- K01 and K02. -/
theorem test_skip_equal :
    after (step ((ready 0x3042).setV 0 0x42)) (·.pc) = some 0x204 ∧
    after (step ((ready 0x3042).setV 0 0x41)) (·.pc) = some 0x202 := by decide
/-- K03 and K04. -/
theorem test_skip_not_equal :
    after (step ((ready 0x4042).setV 0 0x41)) (·.pc) = some 0x204 ∧
    after (step ((ready 0x4042).setV 0 0x42)) (·.pc) = some 0x202 := by decide
/-- K05 and K06. -/
theorem test_skip_registers_equal :
    after (step (((ready 0x5120).setV 1 3).setV 2 3)) (·.pc) = some 0x204 ∧
    after (step (((ready 0x5120).setV 1 3).setV 2 4)) (·.pc) = some 0x202 := by decide
/-- K07 and K08. -/
theorem test_skip_registers_not_equal :
    after (step (((ready 0x9120).setV 1 3).setV 2 3)) (·.pc) = some 0x202 ∧
    after (step (((ready 0x9120).setV 1 3).setV 2 4)) (·.pc) = some 0x204 := by decide

/-! ### The ALU -/

/-- A01. -/
theorem test_set_register : after (step (ready 0x6AFF)) (·.getV 0xA) = some 0xFF := by decide
/-- A02. -/
theorem test_add_immediate :
    after (step ((ready 0x70FF).setV 0 0x02)) (fun t => (t.getV 0, t.getVF)) = some (0x01, 0x00) := by decide
/-- A03. -/
theorem test_copy : after (step (((ready 0x8010).setV 0 0xF0).setV 1 0x3C)) (·.getV 0) = some 0x3C := by decide
/-- A04. -/
theorem test_or :
    after (step ((((ready 0x8011).setV 0 0xF0).setV 1 0x3C).setVF 0x55)) (fun t => (t.getV 0, t.getVF)) =
      some (0xFC, 0x55) := by decide
/-- A05. -/
theorem test_and :
    after (step ((((ready 0x8012).setV 0 0xF0).setV 1 0x3C).setVF 0x55)) (fun t => (t.getV 0, t.getVF)) =
      some (0x30, 0x55) := by decide
/-- A06. -/
theorem test_xor :
    after (step ((((ready 0x8013).setV 0 0xF0).setV 1 0x3C).setVF 0x55)) (fun t => (t.getV 0, t.getVF)) =
      some (0xCC, 0x55) := by decide
/-- A07 and A09. -/
theorem test_add_registers :
    after (step (((ready 0x8014).setV 0 0xFF).setV 1 0x01)) (fun t => (t.getV 0, t.getVF)) = some (0x00, 0x01) ∧
    after (step ((((ready 0x8014).setV 0 0x10).setV 1 0x20).setVF 1)) (fun t => (t.getV 0, t.getVF)) =
      some (0x30, 0x00) := by decide
/-- A10 and A11. -/
theorem test_add_registers_vf :
    after (step (((ready 0x8F04).setV 0 0x01).setVF 0xFF)) (·.getVF) = some 0x01 ∧
    after (step (((ready 0x8F04).setV 0 0x20).setVF 0x10)) (·.getVF) = some 0x00 := by decide
/-- A12. -/
theorem test_subtract :
    after (step ((((ready 0x8015).setV 0 0x05).setV 1 0x07).setVF 0xAA)) (fun t => (t.getV 0, t.getVF)) =
      some (0xFE, 0xAA) := by decide
/-- A14. -/
theorem test_subtract_vf : after (step (((ready 0x8F15).setV 1 0x04).setVF 0x09)) (·.getVF) = some 0x05 := by decide
/-- A13. -/
theorem test_reverse_subtract :
    after (step ((((ready 0x8017).setV 0 0x07).setV 1 0x05).setVF 0x01)) (fun t => (t.getV 0, t.getVF)) =
      some (0xFE, 0x01) := by decide
/-- A15. -/
theorem test_shift_right :
    after (step (((ready 0x8016).setV 0 0x77).setV 1 0x05)) (fun t => (t.getV 0, t.getV 1, t.getVF)) =
      some (0x02, 0x05, 0x01) := by decide
/-- A19 and A20. -/
theorem test_shift_right_vf :
    after (step ((ready 0x8F16).setV 1 0x03)) (·.getVF) = some 0x01 ∧
    after (step ((ready 0x8F16).setV 1 0x02)) (·.getVF) = some 0x00 := by decide
/-- A16. -/
theorem test_shift_left :
    after (step ((ready 0x801E).setV 1 0x81)) (fun t => (t.getV 0, t.getV 1, t.getVF)) = some (0x02, 0x81, 0x01) := by
  decide
/-- A17 and A18. -/
theorem test_shift_left_flag :
    after (step ((ready 0x801E).setV 1 0x80)) (fun t => (t.getV 0, t.getVF)) = some (0x00, 0x01) ∧
    after (step (((ready 0x801E).setV 1 0x01).setVF 1)) (fun t => (t.getV 0, t.getVF)) = some (0x02, 0x00) := by decide

/-! ### Index and memory -/

/-- M01. -/
theorem test_set_index : after (step (ready 0xA123)) (·.i) = some 0x0123 := by decide
/-- M02 and M03. -/
theorem test_add_index :
    after (step ((((ready 0xF01E).setI 0xFFFF).setV 0 0x02).setVF 7)) (fun t => (t.i, t.getVF)) = some (0x0001, 0x07) ∧
    after (step (((ready 0xF01E).setI 0x0FFF).setV 0 0x01)) (fun t => (t.i, t.status)) = some (0x1000, .running) := by
  decide
/-- M04 and M05. -/
theorem test_font_character :
    after (step ((ready 0xF029).setV 0 0x1A)) (·.i) = some 0x0082 ∧
    after (step ((ready 0xF029).setV 0 0x0F)) (·.i) = some 0x009B := by decide
/-- S8. -/
theorem test_decimal :
    after (step (((ready 0xF033).setV 0 0xCD).setI 0x300))
      (fun t => (t.memRead 0x300, t.memRead 0x301, t.memRead 0x302, t.i)) = some (2, 0, 5, 0x300) := by decide
/-- M10. -/
theorem test_decimal_outside :
    after (step (((ready 0xF033).setV 0 0x01).setI 0xFFE)) (fun t => (t.memRead 0xFFE, t.pc, t.status)) =
      some (0, 0x200, .faulted (.memoryAccessViolation 0x200 (some 0xF033) 0x1000)) := by decide
/-- S7, first machine. -/
theorem test_store :
    after (step (((((ready 0xF255).setV 0 0x11).setV 1 0x22).setV 2 0x33).setI 0x300))
      (fun t => (t.memRead 0x300, t.memRead 0x301, t.memRead 0x302, t.memRead 0x303, t.i)) =
      some (0x11, 0x22, 0x33, 0, 0x300) := by decide
/-- M12. -/
theorem test_store_outside :
    after (step ((((ready 0xF155).setV 0 0x09).setV 1 0x08).setI 0xFFF)) (fun t => (t.memRead 0xFFF, t.status)) =
      some (0, .faulted (.memoryAccessViolation 0x200 (some 0xF155) 0x1000)) := by decide
/-- M13. -/
theorem test_load :
    after (step (((((ready 0xF265).memWrite 0x300 1).memWrite 0x301 2).memWrite 0x302 3).setI 0x300))
      (fun t => (t.getV 0, t.getV 1, t.getV 2, t.getV 3, t.i)) = some (1, 2, 3, 0, 0x300) := by decide
/-- M15. -/
theorem test_load_outside :
    after (step ((ready 0xFF65).setI 0xFF1)) (·.status) =
      some (.faulted (.memoryAccessViolation 0x200 (some 0xFF65) 0x1000)) := by decide

/-! ### The display -/

/-- G9. -/
theorem test_clear_screen :
    after (step (((ready 0x00E0).setPix 63 31 true).setVF 0x77)) (fun t => (t.pix 63 31, t.getVF)) =
      some (false, 0x77) := by decide +kernel
/-- G2, S6: columns past the right edge are dropped. -/
theorem test_draw_clips :
    after (step ((((ready 0xD121).setV 1 0x3C).memWrite 0x300 0xFF).setI 0x300))
      (fun t => (t.pix 59 0, t.pix 60 0, t.pix 63 0, t.pix 0 0, t.getVF)) = some (false, true, true, false, 0) := by
  decide +kernel
/-- G7: a collision. -/
theorem test_draw_collides :
    after (step ((((ready 0xD121).setPix 0 0 true).memWrite 0x300 0xC0).setI 0x300))
      (fun t => (t.pix 0 0, t.pix 1 0, t.getVF)) = some (false, true, 1) := by decide +kernel

/-! ### Random, keys and timers -/

/-- R1. -/
theorem test_random : after (step { ready 0xC10F with rand := 0xAB }) (·.getV 1) = some 0x0B := by decide
/-- Q1 and Q5. -/
theorem test_skip_key :
    after (step { (ready 0xE19E).setV 1 5 with keys := noKeys.set 5 true }) (·.pc) = some 0x204 ∧
    after (step { (ready 0xE19E).setV 1 5 with keys := (noKeys.set 4 true).set 6 true }) (·.pc) =
      some 0x202 := by decide
/-- Q6. -/
theorem test_skip_key_outside :
    after (step ((ready 0xE19E).setV 1 0x10)) (·.status) =
      some (.faulted (.keyIndexOutOfRange 0x200 0xE19E 0x10)) := by decide
/-- Q3 and Q4. -/
theorem test_skip_not_key :
    after (step { (ready 0xE1A1).setV 1 5 with keys := noKeys }) (·.pc) = some 0x204 ∧
    after (step { (ready 0xE1A1).setV 1 5 with keys := noKeys.set 5 true }) (·.pc) = some 0x202 := by decide
/-- Q7. -/
theorem test_skip_not_key_outside :
    after (step ((ready 0xE1A1).setV 1 0xFF)) (·.status) =
      some (.faulted (.keyIndexOutOfRange 0x200 0xE1A1 0xFF)) := by decide
/-- K1, first step: key 7 is pressed and not looked at. -/
theorem test_get_key :
    after (step { ready 0xF30A with keys := noKeys.set 7 true }) (fun t => (t.getV 3, t.pc, t.status)) =
      some (0, 0x202, .awaitingKey 3) := by decide
/-- K1, third step: keys 9 and 4; the lowest is taken and nothing is fetched. -/
theorem test_key_wait :
    after (step { (ready 0x6123).setStatus (.awaitingKey 3) with keys := (noKeys.set 9 true).set 4 true })
      (fun t => (t.getV 3, t.getV 1, t.pc, t.status)) = some (4, 0, 0x200, .running) := by decide
/-- T1. -/
theorem test_get_delay : after (step ((ready 0xF207).setDt 0x3C)) (·.getV 2) = some 0x3C := by decide
/-- T2. -/
theorem test_set_delay : after (step ((ready 0xF215).setV 2 0x3C)) (·.dt) = some 0x3C := by decide
/-- T3. -/
theorem test_set_sound : after (step ((ready 0xF218).setV 2 0x05)) (·.st) = some 0x05 := by decide

/-! ### Boot -/

/-- 20_memory.md R78: the first glyph's rows in the default font, and nothing before or after the table. -/
theorem test_load_fonts :
    let s := State.reset.loadFonts Config.defaultFont
    (s.memRead 0x4F, s.memRead 0x50, s.memRead 0x51, s.memRead 0x9F, s.memRead 0xA0) = (0, 0xF0, 0x90, 0x80, 0) := by
  decide +kernel

/-- Boot puts a two-byte program at 0x200 (70_reset_and_hazards.md R293, R295). -/
theorem test_boot :
    ((State.boot Config.defaultFont [0x12, 0x00]).toOption.map
      (fun s => (s.memRead 0x50, s.memRead 0x200, s.memRead 0x201, s.pc))) = some (0xF0, 0x12, 0x00, 0x200) := by
  decide +kernel

/-! ### Witnesses: concrete states and operands that meet a statement's hypotheses -/

/-- Hypothesis of EncodeOfDecode. -/
theorem witness_EncodeOfDecode : decode 0xD123 = .ok (.draw 1 2 3) := by decide

/-- DecoderAcceptsTheTable: a word its second clause is about. -/
theorem witness_DecoderAcceptsTheTable : wellFormedWord 0x8AB8 = false := by decide

/-- StepRunsTheDecodedInstruction, at the last word of memory. -/
theorem witness_StepRunsTheDecodedInstruction :
    let s := ((State.reset.memWrite 0xFFE 0x61).memWrite 0xFFF 0x23).setPc 0xFFE
    s.status = .running ∧ s.pc.toNat + 1 ≤ 0xFFF ∧
      decode (s.memRead s.pc.toNat ++ s.memRead (s.pc.toNat + 1)) = .ok (.setRegister 1 0x23) := by decide

/-- FaultedIsFinal. -/
theorem witness_FaultedIsFinal :
    (State.reset.setStatus (.faulted (.stackUnderflow 0x200 0x00EE))).status =
      .faulted (.stackUnderflow 0x200 0x00EE) := rfl

/-- KeyWaitTakesTheLowestKey, with two keys pressed, and with the last key alone. -/
theorem witness_KeyWaitTakesTheLowestKey :
    (let s : State := { State.reset with status := .awaitingKey 3, keys := (noKeys.set 9 true).set 4 true }
     s.status = .awaitingKey 3 ∧ s.key 4 = true ∧ ∀ j : RegIx, j < 4 → s.key j = false) ∧
    (let s : State := { State.reset with status := .awaitingKey 0xF, keys := noKeys.set 15 true }
     s.status = .awaitingKey 0xF ∧ s.key 0xF = true ∧ ∀ j : RegIx, j < 0xF → s.key j = false) := by decide

/-- KeyWaitWithoutKeyWaits. -/
theorem witness_KeyWaitWithoutKeyWaits :
    let s : State := { State.reset.setStatus (.awaitingKey 3) with keys := noKeys }
    s.status = .awaitingKey 3 ∧ ∀ k : RegIx, s.key k = false := by decide

/-- FetchOutsideMemoryFaults, at the lowest PC it is about, at the next one, and at the highest. -/
theorem witness_FetchOutsideMemoryFaults :
    ((State.reset.setPc 0xFFF).status = .running ∧ 0xFFF < (State.reset.setPc 0xFFF).pc.toNat + 1) ∧
    ((State.reset.setPc 0x1000).status = .running ∧ 0xFFF < (State.reset.setPc 0x1000).pc.toNat) ∧
    ((State.reset.setPc 0xFFFF).status = .running ∧ 0xFFF < (State.reset.setPc 0xFFFF).pc.toNat) := by decide

/-- UnrecognizedWordFaults. -/
theorem witness_UnrecognizedWordFaults :
    let s := ready 0x8AB8
    s.status = .running ∧ s.pc.toNat + 1 ≤ 0xFFF ∧
      (0x8AB8 : Word) = s.memRead s.pc.toNat ++ s.memRead (s.pc.toNat + 1) ∧ decode 0x8AB8 = .error (.unrecognized 0x8AB8) := by decide

/-- FetchSeesStoredBytes: two bytes at the top of memory, PC at the first. -/
theorem witness_FetchSeesStoredBytes :
    let s := State.reset.setI 0xFFE
    s.mem.wf ∧ s.i.toNat + (1 : RegIx).toNat ≤ 0xFFF ∧ 0 + 1 ≤ (1 : RegIx).toNat ∧
      exec (.storeMemory 1) s = .next (State.storeRegs 2 s.advance) := by
  refine ⟨by decide, by decide, by decide, by rfl⟩

/-- PlacedWordRunsNext, from a faulted state whose PC is outside memory. -/
theorem witness_PlacedWordRunsNext :
    let s := (State.reset.setPc 0x1000).setStatus (.faulted (.memoryAccessViolation 0x1000 none 0x1000))
    s.mem.wf ∧ decodeTableWord 16 0x00E0 = some .clearScreen := by decide

/-- StepKeepsInv: a state with bytes in memory and a fault, one that the reset state is not. -/
theorem witness_StepKeepsInv :
    let s := ((ready 0x00EE).memWrite 0xFFF 0x7F).setStatus (.faulted (.stackUnderflow 0x200 0x00EE))
    s.Inv ∧ step s = .next s.drawInputs := by
  refine ⟨⟨by decide, fun f hf => ?_⟩, by rfl⟩
  obtain rfl : FaultInfo.stackUnderflow 0x200 0x00EE = f := by simpa using hf
  exact ⟨by decide, rfl⟩

/-- FaultsArePrecise, OnlyNamedInstructionsFault: a return on an empty stack. -/
theorem witness_FaultsArePrecise :
    let t := State.reset.setStatus (.faulted (.stackUnderflow 0x200 0x00EE))
    State.reset.status = .running ∧ exec .ret State.reset = .next t ∧
      t.status = .faulted (.stackUnderflow 0x200 0x00EE) ∧ ¬ t.Safe :=
  ⟨rfl, by rfl, rfl, fun h => h _ rfl⟩

/-- OnlyGetKeyWaits. -/
theorem witness_OnlyGetKeyWaits :
    State.reset.status = .running ∧
      exec (.getKey 3) State.reset = .next (State.reset.advance.setStatus (.awaitingKey 3)) := ⟨rfl, by rfl⟩

/-- EveryInstructionKeepsItsFrame, InputsReachOnlyTheirInstructions: an instruction that is neither a key test nor a random
byte. -/
theorem witness_EveryInstructionKeepsItsFrame :
    exec (.setIndex 0x123) State.reset = .next (State.reset.advance.setI 0x123) ∧
      (∀ x, Instr.setIndex 0x123 ≠ .skipIfKey x) ∧ (∀ x, Instr.setIndex 0x123 ≠ .skipIfNotKey x) ∧
      (∀ x nn, Instr.setIndex 0x123 ≠ .randomAnd x nn) := by
  refine ⟨by rfl, ?_, ?_, ?_⟩ <;> simp

/-- SequentialInstructionsAdvancePc: at the last PC, one that raises a fault, and one that enters the key wait. -/
theorem witness_SequentialInstructionsAdvancePc :
    (let s := State.reset.setPc 0xFFFF
     s.status = .running ∧ Instr.transfersControl (.setIndex 1) = false ∧
       exec (.setIndex 1) s = .next (s.advance.setI 0x1)) ∧
    (let s := State.reset.setI 0x1000
     s.status = .running ∧ Instr.transfersControl (.storeMemory 0) = false ∧
       exec (.storeMemory 0) s = .next (s.setStatus (.faulted (.memoryAccessViolation 0x200 (some 0xF055) 0x1000)))) ∧
    (Instr.transfersControl (.getKey 3) = false ∧
       exec (.getKey 3) State.reset = .next (State.reset.advance.setStatus (.awaitingKey 3))) := by
  refine ⟨⟨by decide, by decide, by rfl⟩, ⟨by decide, by decide, by rfl⟩, by decide, by rfl⟩

/-- RegisterSkips, its two clauses about words that are no instruction: the least and the greatest fourth nibble. -/
theorem witness_RegisterSkips : (1 : Nibble) ≠ 0 ∧ (0xF : Nibble) ≠ 0 := by decide

/-- SelfJumpIsFixed. -/
theorem witness_SelfJumpIsFixed : State.reset.pc.toNat = (0x200 : Addr12).toNat := by decide

/-- CallPushesTheReturnAddress, with room for one more entry, and ReturnUndoesCall from there. -/
theorem witness_CallPushesTheReturnAddress :
    let s : State := { State.reset with sp := 15 }
    s.sp.val < 16 ∧ exec (.call 0x300) s =
      .next (({ s with sp := 16, stack := s.stack.set 15 0x202 } : State).setPc 0x300) := by
  refine ⟨by decide, by rfl⟩

/-- CallOverflows. -/
theorem witness_CallOverflows : ({ State.reset with sp := 16 } : State).sp.val = 16 := by decide

/-- ReturnPopsTheAddress, from one entry and from a full stack. -/
theorem witness_ReturnPopsTheAddress :
    0 < ({ State.reset with sp := 1 } : State).sp.val ∧ 0 < ({ State.reset with sp := 16 } : State).sp.val := by decide

/-- ReturnUnderflows. -/
theorem witness_ReturnUnderflows : State.reset.sp.val = 0 := by decide

/-- KeySkips, at the last key. -/
theorem witness_KeySkips : ((State.reset.setV 1 0x0F).getV 1).toNat = (0xF : RegIx).toNat := by decide

/-- KeyIndexOutOfRangeFaults, at the lowest value it is about. -/
theorem witness_KeyIndexOutOfRangeFaults : 0x0F < ((State.reset.setV 1 0x10).getV 1).toNat := by decide

/-- AddRegistersCarries, ShiftRightHalves, ShiftLeftDoubles: a register that is not VF. -/
theorem witness_not_VF : (0xE : RegIx) ≠ 0xF#4 := by decide

/-- DecimalDigitsStored, StoreMemoryStoresTheBlock, LoadMemoryLoadsTheBlock: blocks that end at the top of memory. -/
theorem witness_blocks_inside :
    let s := State.reset.setI 0xFFD
    s.mem.wf ∧ s.i.toNat + 2 ≤ 0xFFF ∧ s.i.toNat + (2 : RegIx).toNat ≤ 0xFFF := by decide

/-- BlockOutsideMemoryFaults, each clause one address higher, and a draw of two rows. -/
theorem witness_blocks_outside :
    let s := State.reset.setI 0xFFE
    let u := State.reset.setI 0xFFF
    0xFFF < s.i.toNat + 2 ∧ 0xFFF < s.i.toNat + (2 : RegIx).toNat ∧
      0 < (2 : Nibble).toNat ∧ 0xFFF < u.i.toNat + (2 : Nibble).toNat - 1 := by decide

/-- StoreThenLoadRoundTrip: the second machine is one with other registers and the same bytes. -/
theorem witness_StoreThenLoadRoundTrip :
    let s := (State.reset.setV 0 0x11).setI 0x300
    let t := State.storeRegs 1 s.advance
    let u := t.setV 0 0x99
    s.mem.wf ∧ s.i.toNat + (0 : RegIx).toNat ≤ 0xFFF ∧ exec (.storeMemory 0) s = .next t ∧ u.i = s.i ∧
      ∀ k : Nat, k ≤ (0 : RegIx).toNat → u.memRead (s.i.toNat + k) = t.memRead (s.i.toNat + k) := by
  refine ⟨by decide, by decide, by rfl, by decide, fun k _ => rfl⟩

/-- DrawXorsTheSprite: no row, and fifteen rows at the top of memory. -/
theorem witness_DrawXorsTheSprite :
    (0 : Nibble) = 0 ∧ (State.reset.setI 0xFF1).i.toNat + (0xF : Nibble).toNat - 1 ≤ 0xFFF := by decide

/-- DrawXorsTheSprite, its collision clauses: a screen where a lit pixel goes off, and one where none does. -/
theorem witness_DrawXorsTheSprite_clauses :
    let s := (State.reset.memWrite 0x300 0xC0).setI 0x300
    after (exec (.draw 1 2 1) (s.setPix 0 0 true)) (fun t => ((s.setPix 0 0 true).pix 0 0, t.pix 0 0, t.getVF)) =
      some (true, false, 1) ∧
    after (exec (.draw 1 2 1) (s.setPix 2 0 true)) (fun t => ((s.setPix 2 0 true).pix 2 0, t.pix 2 0, t.getVF)) =
      some (true, true, 0) := by decide +kernel

/-- DrawTwiceRestoresTheScreen: one row on a dark screen, drawn twice at the origin that V1 and V2 name. -/
theorem witness_DrawTwiceRestoresTheScreen :
    let s := (State.reset.memWrite 0x300 0x80).setI 0x300
    let t := drawRows (s.originX 1) (s.originY 2) 1 (s.advance.setVF 0x00#8)
    let u := drawRows (t.originX 1) (t.originY 2) 1 (t.advance.setVF 0x00#8)
    s.i.toNat + (1 : Nibble).toNat - 1 ≤ 0xFFF ∧ exec (.draw 1 2 1) s = .next t ∧ exec (.draw 1 2 1) t = .next u ∧
      t.originX 1 = s.originX 1 ∧ t.originY 2 = s.originY 2 ∧
      s.spriteBit (s.originX 1) (s.originY 2) 1 0 0 = true ∧
      (∀ c d, s.spriteBit (s.originX 1) (s.originY 2) 1 c d = true → s.pix c d = false) := by
  refine ⟨by decide, by rfl, by rfl, by decide +kernel, by decide +kernel, by decide +kernel, fun c d _ => ?_⟩
  by_cases h : c < 64 ∧ d < 32
  · simp [State.pix, State.setI, State.memWrite, State.reset, h]
  · exact State.pix_outside _ _ _ h

/-- FontsLoaded, ProgramLoaded: a memory that is not empty; a program of the greatest length and one byte more. -/
theorem witness_boot :
    (ready 0x1234).mem.wf ∧ (List.replicate 3584 (0x12 : Byte)).length ≤ 4096 - 0x200 ∧
      4096 - 0x200 < (List.replicate 3585 (0x12 : Byte)).length := by
  exact ⟨by decide, List.length_replicate.le, by rw [List.length_replicate]; decide⟩

end Sys2Proof.Tests
end

