-- ==== Sys2Proof/Proofs/ClearScreen.lean ====
section
/-! PROOF. The clear of the display (44_display.md R220): its outcome, its frame, and the statement O52. -/

namespace Sys2Proof.Machine

/-- `00E0` answers the state with PC past the instruction and the display cleared. -/
theorem exec_clearScreen (s : State) : exec .clearScreen s = .next s.advance.clearDisplay := rfl

/-- A frame does not speak of PC, so it holds from the state before the fetch's increment where it holds from the one
after. -/
theorem Frame.Holds.of_advance {f : Frame} {s t : State} (h : f.Holds s.advance t) : f.Holds s t := by
  simpa [Frame.Holds] using h

/-- Clearing the display changes the pixels only. -/
theorem Frame.holds_clearDisplay (s : State) : Frame.Holds { screen := true } s s.clearDisplay := by
  simp [Frame.Holds]

end Sys2Proof.Machine

namespace Sys2Proof

open Sys2Proof.Machine

/-- The word of R220 is the decoder's first row. -/
theorem decode_00E0 : decode 0x00E0#16 = .ok .clearScreen := by
  rw [decode, if_pos rfl]

/-- Settles O52: the next state is the advanced state with its display cleared, and neither the advance nor the clear
writes anything but PC and the pixels. -/
theorem clearScreenBlanks : Obligations.ClearScreenBlanks :=
  ⟨decode_00E0, fun s => ⟨s.advance.clearDisplay, exec_clearScreen s, State.pix_clearDisplay s.advance,
    State.advance_pc s, (Frame.holds_clearDisplay s.advance).of_advance⟩⟩

end Sys2Proof
end

