-- ==== Sys2Proof/Proofs/Tick.lean ====
section
/-! PROOF. The timer unit's tick (45_timers_keys_random.md R250): its decrement, its frame, and the statement O7. -/

namespace Sys2Proof.Machine

/-- R250's two branches: a timer above zero loses 1, a zero timer stays at zero. -/
theorem decrement_toNat_eq_ite (b : Byte) :
    (decrement b).toNat = if 0 < b.toNat then b.toNat - 1 else 0 := by
  rw [decrement_toNat]
  split
  · rfl
  · omega

/-- A tick changes the two timers only. -/
theorem Frame.holds_tick (s : State) : Frame.Holds { delay := true, sound := true } s s.tick := by
  simp [Frame.Holds]

end Sys2Proof.Machine

namespace Sys2Proof

open Sys2Proof.Machine

/-- Settles O7: each timer is replaced by its own decrement, and a tick writes nothing else. -/
theorem tickDecrementsTimers : Obligations.TickDecrementsTimers := fun s =>
  ⟨decrement_toNat_eq_ite s.dt, decrement_toNat_eq_ite s.st, State.tick_pc s, Frame.holds_tick s⟩

end Sys2Proof
end

