-- ==== Sys2Proof/Proofs/Boot.lean ====
section
/-! PROOF. The boot sequence (70_reset_and_hazards.md R294, R295): a list of bytes stored from an address on, its bytes,
its frame and its idempotence, the two outcomes of the program load, and the statements O59 and O60. -/

namespace Sys2Proof.Machine

/-- An address outside the block of `n` from `base` on lies before it or after it. -/
theorem lt_or_le_of_notMem_block {base n p : Nat} (h : p ∉ (List.range n).map (base + ·)) :
    p < base ∨ base + n ≤ p := by
  by_contra hp
  exact h (List.mem_map.2 ⟨p - base, List.mem_range.2 (by omega), by omega⟩)

/-- Storing a list of bytes changes its block of memory only. -/
theorem Frame.holds_writeList (s : State) (base : Nat) (bs : List Byte) :
    Frame.Holds { stored := (List.range bs.length).map (base + ·) } s { s with mem := s.mem.writeList base bs } :=
  ⟨fun _ _ => rfl, fun _ => rfl, fun _ => ⟨rfl, rfl⟩, fun _ => rfl, fun _ => rfl,
    fun p hp => Memory.read_writeList_outside bs s.mem base p (lt_or_le_of_notMem_block hp),
    fun _ _ _ => rfl, fun _ => rfl, fun _ => ⟨rfl, rfl, rfl, rfl⟩⟩

/-- Storing the same bytes again changes no byte: inside the block both memories hold the byte stored, outside it the
second store reaches nothing. -/
theorem Memory.read_writeList_writeList (bs : List Byte) (m : Memory) (hm : m.wf) (base p : Nat)
    (hb : base + bs.length ≤ 4096) :
    ((m.writeList base bs).writeList base bs).read p = (m.writeList base bs).read p := by
  by_cases hp : p < base ∨ base + bs.length ≤ p
  · exact Memory.read_writeList_outside bs _ base p hp
  · obtain ⟨k, rfl⟩ : ∃ k, p = base + k := ⟨p - base, by omega⟩
    have hk : k < bs.length := by omega
    rw [Memory.read_writeList bs _ (Memory.wf_writeList bs m hm base hb) base k hb hk,
      Memory.read_writeList bs m hm base k hb hk]

/-- The font load puts byte `j` of the table at 0x050 + j. -/
theorem State.memRead_loadFonts (s : State) (hs : s.mem.wf) (font : Vector Byte 80) (j : Nat) (h : j < 80) :
    (s.loadFonts font).memRead (0x050 + j) = font[j] := by
  have hlen : font.toList.length = 80 := Vector.length_toList
  have hread := Memory.read_writeList font.toList s.mem hs 0x050 j (by omega) (by omega)
  rwa [Vector.getElem_toList] at hread

/-- The font load changes 0x050..0x09F only. -/
theorem Frame.holds_loadFonts (s : State) (font : Vector Byte 80) :
    Frame.Holds { stored := (List.range 80).map (0x050 + ·) } s (s.loadFonts font) := by
  have hframe := Frame.holds_writeList s 0x050 font.toList
  rwa [Vector.length_toList] at hframe

/-- A second font load changes no byte. -/
theorem State.memRead_loadFonts_loadFonts (s : State) (hs : s.mem.wf) (font : Vector Byte 80) (p : Nat) :
    ((s.loadFonts font).loadFonts font).memRead p = (s.loadFonts font).memRead p :=
  Memory.read_writeList_writeList font.toList s.mem hs 0x050 p (by rw [Vector.length_toList]; decide)

/-- A program longer than the program region is refused with its length. -/
theorem State.loadProgram_of_long (s : State) (bytes : List Byte) (h : Config.maxProgram < bytes.length) :
    s.loadProgram bytes = .error (.romTooLarge bytes.length) := if_pos h

/-- A program that fits is stored from 0x200 on. -/
theorem State.loadProgram_of_fits (s : State) (bytes : List Byte) (h : bytes.length ≤ Config.maxProgram) :
    s.loadProgram bytes = .ok { s with mem := s.mem.writeList Config.progBase bytes } := if_neg h.not_gt

end Sys2Proof.Machine

namespace Sys2Proof

open Sys2Proof.Machine

/-- Settles O59: the table's bytes stand in its block, the store reaches no other address, and storing the same bytes
again changes none. -/
theorem fontsLoaded : Obligations.FontsLoaded := fun font s hs =>
  ⟨State.memRead_loadFonts s hs font, State.loadFonts_pc s font, Frame.holds_loadFonts s font,
    State.memRead_loadFonts_loadFonts s hs font⟩

/-- Settles O60: the length decides between the error and the store, and a program that fits ends inside memory, so each
of its bytes is read back. -/
theorem programLoaded : Obligations.ProgramLoaded := by
  intro bytes s hs
  refine ⟨State.loadProgram_of_long s bytes, fun hfits => ?_⟩
  exact ⟨_, State.loadProgram_of_fits s bytes hfits,
    fun j hj => Memory.read_writeList bytes s.mem hs 0x200 j (by omega) hj, rfl,
    Frame.holds_writeList s 0x200 bytes⟩

end Sys2Proof
end

