-- ==== Sys2Proof/Proofs/Encoding.lean ====
section
/-! PROOF. The decoder against the encoder, the opcode table and the unrecognized words (30_encoding.md R101 to R108):
the statements O1 to O5. -/

namespace Sys2Proof

/-! ### A word with given fields is assembled from them -/

theorem formA_of_fields {w : Word} {op : BitVec 4} (h : opField w = op) : formA op (nnnField w) = w :=
  h ▸ formA_fields w

theorem formXNN_of_fields {w : Word} {op : BitVec 4} (h : opField w = op) : formXNN op (xField w) (nnField w) = w :=
  h ▸ formXNN_fields w

theorem formXNN_of_fixed {w : Word} {op : BitVec 4} {nn : Byte} (h : opField w = op ∧ nnField w = nn) :
    formXNN op (xField w) nn = w := by
  obtain ⟨rfl, rfl⟩ := h
  exact formXNN_fields w

theorem formXYN_of_fields {w : Word} {op : BitVec 4} (h : opField w = op) :
    formXYN op (xField w) (yField w) (nField w) = w :=
  h ▸ formXYN_fields w

theorem formXYN_of_fixed {w : Word} {op : BitVec 4} {n : Nibble} (h : opField w = op ∧ nField w = n) :
    formXYN op (xField w) (yField w) n = w := by
  obtain ⟨rfl, rfl⟩ := h
  exact formXYN_fields w

/-! ### The words an instruction is read from -/

/-- The first nibbles whose words are all recognized (R104). -/
abbrev FreeOp (op : BitVec 4) : Prop :=
  op ∈ [0x1#4, 0x2#4, 0x3#4, 0x4#4, 0x6#4, 0x7#4, 0xA#4, 0xB#4, 0xC#4, 0xD#4]

/-- The families 5, 8 and 9, told apart by N (R104). -/
abbrev NibbleOp (op : BitVec 4) (n : Nibble) : Prop :=
  (op ∈ [0x5#4, 0x9#4] ∧ n = 0x0#4) ∨
  (op = 0x8#4 ∧ n ∈ [0x0#4, 0x1#4, 0x2#4, 0x3#4, 0x4#4, 0x5#4, 0x6#4, 0x7#4, 0xE#4])

/-- The families E and F, told apart by NN (R104). -/
abbrev ByteOp (op : BitVec 4) (nn : Byte) : Prop :=
  (op = 0xE#4 ∧ nn ∈ [0x9E#8, 0xA1#8]) ∨
  (op = 0xF#4 ∧ nn ∈ [0x07#8, 0x0A#8, 0x15#8, 0x18#8, 0x1E#8, 0x29#8, 0x33#8, 0x55#8, 0x65#8])

/-- What the rows of R104 ask of a word's fields, all rows together. -/
def Recognized (w : Word) : Prop :=
  (w = 0x00E0#16 ∨ w = 0x00EE#16) ∨ FreeOp (opField w) ∨ NibbleOp (opField w) (nField w) ∨
    ByteOp (opField w) (nnField w)

/-- Decoding the word of an instruction: its family's fields are the ones it was assembled from. -/
theorem decode_encode (i : Instr) : decode (encode i) = .ok i := by
  cases i with
  | clearScreen | ret => decide
  | jump nnn | call nnn | setIndex nnn | jumpWithOffset nnn =>
    simp [encode, decode, opField_formA, nnnField_formA, ne_family0]
  | skipIfEqual x nn | skipIfNotEqual x nn | setRegister x nn | addImmediate x nn | randomAnd x nn =>
    simp [encode, decode, opField_formXNN, xField_formXNN, nnField_formXNN, ne_family0]
  | skipIfKey x | skipIfNotKey x | getDelayTimer x | getKey x | setDelayTimer x | setSoundTimer x | addToIndex x
  | fontCharacter x | binaryDecimalConversion x | storeMemory x | loadMemory x =>
    simp [encode, decode, opField_formXNN, xField_formXNN, nnField_formXNN, ne_family0]
  | skipIfRegistersEqual x y | skipIfRegistersNotEqual x y | copyRegister x y | or x y | and x y | xor x y
  | addRegisters x y | subtract x y | shiftRight x y | reverseSubtract x y | shiftLeft x y | draw x y n =>
    simp [encode, decode, opField_formXYN, xField_formXYN, yField_formXYN, nField_formXYN, ne_family0]

/-- Every such word is the word of an instruction: its row's, with the operands in its fields. -/
theorem exists_encode_of_recognized (w : Word) (h : Recognized w) : ∃ i, encode i = w := by
  simp only [Recognized, FreeOp, NibbleOp, ByteOp, List.mem_cons, List.not_mem_nil, or_false] at h
  obtain (rfl | rfl) | hop | (⟨hop | hop, hn⟩ | ⟨hop, hn⟩) | ⟨hop, hnn⟩ | ⟨hop, hnn⟩ := h
  · exact ⟨.clearScreen, rfl⟩
  · exact ⟨.ret, rfl⟩
  · obtain hop | hop | hop | hop | hop | hop | hop | hop | hop | hop := hop
    · exact ⟨.jump (nnnField w), formA_of_fields hop⟩
    · exact ⟨.call (nnnField w), formA_of_fields hop⟩
    · exact ⟨.skipIfEqual (xField w) (nnField w), formXNN_of_fields hop⟩
    · exact ⟨.skipIfNotEqual (xField w) (nnField w), formXNN_of_fields hop⟩
    · exact ⟨.setRegister (xField w) (nnField w), formXNN_of_fields hop⟩
    · exact ⟨.addImmediate (xField w) (nnField w), formXNN_of_fields hop⟩
    · exact ⟨.setIndex (nnnField w), formA_of_fields hop⟩
    · exact ⟨.jumpWithOffset (nnnField w), formA_of_fields hop⟩
    · exact ⟨.randomAnd (xField w) (nnField w), formXNN_of_fields hop⟩
    · exact ⟨.draw (xField w) (yField w) (nField w), formXYN_of_fields hop⟩
  · exact ⟨.skipIfRegistersEqual (xField w) (yField w), formXYN_of_fixed ⟨hop, hn⟩⟩
  · exact ⟨.skipIfRegistersNotEqual (xField w) (yField w), formXYN_of_fixed ⟨hop, hn⟩⟩
  · obtain hn | hn | hn | hn | hn | hn | hn | hn | hn := hn
    · exact ⟨.copyRegister (xField w) (yField w), formXYN_of_fixed ⟨hop, hn⟩⟩
    · exact ⟨.or (xField w) (yField w), formXYN_of_fixed ⟨hop, hn⟩⟩
    · exact ⟨.and (xField w) (yField w), formXYN_of_fixed ⟨hop, hn⟩⟩
    · exact ⟨.xor (xField w) (yField w), formXYN_of_fixed ⟨hop, hn⟩⟩
    · exact ⟨.addRegisters (xField w) (yField w), formXYN_of_fixed ⟨hop, hn⟩⟩
    · exact ⟨.subtract (xField w) (yField w), formXYN_of_fixed ⟨hop, hn⟩⟩
    · exact ⟨.shiftRight (xField w) (yField w), formXYN_of_fixed ⟨hop, hn⟩⟩
    · exact ⟨.reverseSubtract (xField w) (yField w), formXYN_of_fixed ⟨hop, hn⟩⟩
    · exact ⟨.shiftLeft (xField w) (yField w), formXYN_of_fixed ⟨hop, hn⟩⟩
  · obtain hnn | hnn := hnn
    · exact ⟨.skipIfKey (xField w), formXNN_of_fixed ⟨hop, hnn⟩⟩
    · exact ⟨.skipIfNotKey (xField w), formXNN_of_fixed ⟨hop, hnn⟩⟩
  · obtain hnn | hnn | hnn | hnn | hnn | hnn | hnn | hnn | hnn := hnn
    · exact ⟨.getDelayTimer (xField w), formXNN_of_fixed ⟨hop, hnn⟩⟩
    · exact ⟨.getKey (xField w), formXNN_of_fixed ⟨hop, hnn⟩⟩
    · exact ⟨.setDelayTimer (xField w), formXNN_of_fixed ⟨hop, hnn⟩⟩
    · exact ⟨.setSoundTimer (xField w), formXNN_of_fixed ⟨hop, hnn⟩⟩
    · exact ⟨.addToIndex (xField w), formXNN_of_fixed ⟨hop, hnn⟩⟩
    · exact ⟨.fontCharacter (xField w), formXNN_of_fixed ⟨hop, hnn⟩⟩
    · exact ⟨.binaryDecimalConversion (xField w), formXNN_of_fixed ⟨hop, hnn⟩⟩
    · exact ⟨.storeMemory (xField w), formXNN_of_fixed ⟨hop, hnn⟩⟩
    · exact ⟨.loadMemory (xField w), formXNN_of_fixed ⟨hop, hnn⟩⟩

/-- Every other word falls through all the rows. -/
theorem decode_of_not_recognized (w : Word) (h : ¬ Recognized w) : decode w = .error (.unrecognized w) := by
  simp only [Recognized, FreeOp, NibbleOp, ByteOp, List.mem_cons, List.not_mem_nil, or_false, and_or_left,
    or_and_right, not_or] at h
  simp only [decode, h, if_false]

/-- The decoder accepts the recognized words. -/
theorem decode_isOk_iff (w : Word) : (∃ i, decode w = .ok i) ↔ Recognized w := by
  constructor
  · rintro ⟨i, hi⟩
    by_contra h
    rw [decode_of_not_recognized w h] at hi
    cases hi
  · intro h
    obtain ⟨i, rfl⟩ := exists_encode_of_recognized w h
    exact ⟨i, decode_encode i⟩

/-- The decoder rejects the other words by name. -/
theorem decode_isError_iff (w : Word) : decode w = .error (.unrecognized w) ↔ ¬ Recognized w := by
  refine ⟨fun he h => ?_, decode_of_not_recognized w⟩
  obtain ⟨i, hi⟩ := (decode_isOk_iff w).2 h
  rw [hi] at he
  cases he

/-- A word that decodes is the word of an instruction, and that instruction is the one it decodes to. -/
theorem encode_of_decode (w : Word) (i : Instr) (h : decode w = .ok i) : encode i = w := by
  obtain ⟨j, rfl⟩ := exists_encode_of_recognized w ((decode_isOk_iff w).1 ⟨i, h⟩)
  rw [decode_encode j] at h
  cases h
  rfl

/-! ### The opcode table -/

/-- A row of the table is of one of four kinds, by its mask. -/
theorem opcodeRows_kinds : ∀ r ∈ opcodeRows,
    (r.mask = 0xFFFF#16 ∧ (r.pattern = 0x00E0#16 ∨ r.pattern = 0x00EE#16)) ∨
    (r.mask = 0xF000#16 ∧ FreeOp (opField r.pattern)) ∨
    (r.mask = 0xF00F#16 ∧ NibbleOp (opField r.pattern) (nField r.pattern)) ∨
    (r.mask = 0xF0FF#16 ∧ ByteOp (opField r.pattern) (nnField r.pattern)) := by
  decide

/-- A field that a mask covers is the masked word's own. -/
theorem opField_and (w m : Word) (hm : opField m = 0xF#4) : opField (w &&& m) = opField w := by
  rw [opField, BitVec.extractLsb'_and, show m.extractLsb' 12 4 = 0xF#4 from hm]
  exact BitVec.and_allOnes

theorem nField_and (w m : Word) (hm : nField m = 0xF#4) : nField (w &&& m) = nField w := by
  rw [nField, BitVec.extractLsb'_and, show m.extractLsb' 0 4 = 0xF#4 from hm]
  exact BitVec.and_allOnes

theorem nnField_and (w m : Word) (hm : nnField m = 0xFF#8) : nnField (w &&& m) = nnField w := by
  rw [nnField, BitVec.extractLsb'_and, show m.extractLsb' 0 8 = 0xFF#8 from hm]
  exact BitVec.and_allOnes

/-- A word that matches a row is recognized: under the row's mask it has the fields of the row's pattern. -/
theorem recognized_of_matches {r : OpcodeRow} (hr : r ∈ opcodeRows) {w : Word} (h : r.matches w = true) :
    Recognized w := by
  have hw : w &&& r.mask = r.pattern := by simpa [OpcodeRow.matches] using h
  obtain ⟨hm, hp⟩ | ⟨hm, hp⟩ | ⟨hm, hp⟩ | ⟨hm, hp⟩ := opcodeRows_kinds r hr
  all_goals rw [hm] at hw; rw [← hw] at hp
  · rw [show w &&& 0xFFFF#16 = w from BitVec.and_allOnes] at hp
    exact .inl hp
  · rw [opField_and _ _ (by decide)] at hp
    exact .inr (.inl hp)
  · rw [opField_and _ _ (by decide), nField_and _ _ (by decide)] at hp
    exact .inr (.inr (.inl hp))
  · rw [opField_and _ _ (by decide), nnField_and _ _ (by decide)] at hp
    exact .inr (.inr (.inr hp))

/-- Every instruction's word matches its row (30_encoding.md R110). -/
theorem encode_matches_row (i : Instr) : Laws.Encoding.Statement i := by
  cases i with
  | clearScreen => exact Laws.Encoding.clearScreen
  | ret => exact Laws.Encoding.ret
  | jump nnn => exact Laws.Encoding.jump nnn
  | call nnn => exact Laws.Encoding.call nnn
  | skipIfEqual x nn => exact Laws.Encoding.skipIfEqual x nn
  | skipIfNotEqual x nn => exact Laws.Encoding.skipIfNotEqual x nn
  | skipIfRegistersEqual x y => exact Laws.Encoding.skipIfRegistersEqual x y
  | setRegister x nn => exact Laws.Encoding.setRegister x nn
  | addImmediate x nn => exact Laws.Encoding.addImmediate x nn
  | copyRegister x y => exact Laws.Encoding.copyRegister x y
  | or x y => exact Laws.Encoding.or x y
  | and x y => exact Laws.Encoding.and x y
  | xor x y => exact Laws.Encoding.xor x y
  | addRegisters x y => exact Laws.Encoding.addRegisters x y
  | subtract x y => exact Laws.Encoding.subtract x y
  | shiftRight x y => exact Laws.Encoding.shiftRight x y
  | reverseSubtract x y => exact Laws.Encoding.reverseSubtract x y
  | shiftLeft x y => exact Laws.Encoding.shiftLeft x y
  | skipIfRegistersNotEqual x y => exact Laws.Encoding.skipIfRegistersNotEqual x y
  | setIndex nnn => exact Laws.Encoding.setIndex nnn
  | jumpWithOffset nnn => exact Laws.Encoding.jumpWithOffset nnn
  | randomAnd x nn => exact Laws.Encoding.randomAnd x nn
  | draw x y n => exact Laws.Encoding.draw x y n
  | skipIfKey x => exact Laws.Encoding.skipIfKey x
  | skipIfNotKey x => exact Laws.Encoding.skipIfNotKey x
  | getDelayTimer x => exact Laws.Encoding.getDelayTimer x
  | getKey x => exact Laws.Encoding.getKey x
  | setDelayTimer x => exact Laws.Encoding.setDelayTimer x
  | setSoundTimer x => exact Laws.Encoding.setSoundTimer x
  | addToIndex x => exact Laws.Encoding.addToIndex x
  | fontCharacter x => exact Laws.Encoding.fontCharacter x
  | binaryDecimalConversion x => exact Laws.Encoding.binaryDecimalConversion x
  | storeMemory x => exact Laws.Encoding.storeMemory x
  | loadMemory x => exact Laws.Encoding.loadMemory x

/-- The table's words are the recognized ones. -/
theorem wellFormedWord_iff (w : Word) : wellFormedWord w = true ↔ Recognized w := by
  rw [wellFormedWord, List.any_eq_true]
  constructor
  · rintro ⟨r, hr, hm⟩
    exact recognized_of_matches hr hm
  · intro h
    obtain ⟨i, rfl⟩ := exists_encode_of_recognized w h
    obtain ⟨r, hr, -, hm⟩ := encode_matches_row i
    exact ⟨r, hr, hm⟩

/-! ### The families with words of no instruction -/

/-- A first nibble is one of six whose family has such words, or one whose words are all recognized. -/
theorem op_cases (op : BitVec 4) :
    op = 0x0#4 ∨ op = 0x5#4 ∨ op = 0x8#4 ∨ op = 0x9#4 ∨ op = 0xE#4 ∨ op = 0xF#4 ∨ FreeOp op := by
  revert op
  decide

/-- The nibbles of family 8 that name no operation. -/
theorem notMem_alu_nibbles (n : Nibble) :
    n ∉ [0x0#4, 0x1#4, 0x2#4, 0x3#4, 0x4#4, 0x5#4, 0x6#4, 0x7#4, 0xE#4] ↔
      n.toNat ∈ [8, 9, 0xA, 0xB, 0xC, 0xD, 0xF] := by
  revert n
  decide

/-- A word is not recognized exactly where it lies in one of the six sets of R107. -/
theorem not_recognized_iff (w : Word) : ¬ Recognized w ↔
    (w.toNat < 0x1000 ∧ w ≠ 0x00E0 ∧ w ≠ 0x00EE) ∨
    (w.toNat / 0x1000 = 5 ∧ w.toNat % 16 ≠ 0) ∨
    (w.toNat / 0x1000 = 8 ∧ w.toNat % 16 ∈ [8, 9, 0xA, 0xB, 0xC, 0xD, 0xF]) ∨
    (w.toNat / 0x1000 = 9 ∧ w.toNat % 16 ≠ 0) ∨
    (w.toNat / 0x1000 = 0xE ∧ w.toNat % 256 ∉ [0x9E, 0xA1]) ∨
    (w.toNat / 0x1000 = 0xF ∧ w.toNat % 256 ∉ [0x07, 0x0A, 0x15, 0x18, 0x1E, 0x29, 0x33, 0x55, 0x65]) := by
  have hlow : w.toNat < 0x1000 ↔ w.toNat / 0x1000 = 0 := by omega
  have hne := ne_family0 w
  rw [hlow, ← opField_toNat, ← nField_toNat, ← nnField_toNat, ← notMem_alu_nibbles]
  obtain h | h | h | h | h | h | h := op_cases (opField w)
  · simp [Recognized, NibbleOp, ByteOp, h]
  · simp [Recognized, NibbleOp, ByteOp, h, hne, ← BitVec.toNat_inj]
  · simp [Recognized, NibbleOp, ByteOp, h, hne]
  · simp [Recognized, NibbleOp, ByteOp, h, hne, ← BitVec.toNat_inj]
  · simp [Recognized, NibbleOp, ByteOp, h, hne, ← BitVec.toNat_inj]
  · simp [Recognized, NibbleOp, ByteOp, h, hne, ← BitVec.toNat_inj]
  · refine iff_of_false (fun hn => hn (.inr (.inl h))) ?_
    simp only [FreeOp, List.mem_cons, List.not_mem_nil, or_false] at h
    obtain h | h | h | h | h | h | h | h | h | h := h <;> simp [h]

/-! ### The statements -/

/-- Settles O1: each word is the encoding of the instruction named, and 8AB8 lies in a set of R107. -/
theorem specWordsDecode : Obligations.SpecWordsDecode :=
  ⟨decode_encode (.draw 1 2 3), decode_encode .clearScreen, decode_encode (.skipIfRegistersEqual 2 3),
    decode_of_not_recognized _ ((not_recognized_iff _).2 (by decide)), decode_encode .ret,
    decode_encode (.jumpWithOffset 0xFED), decode_encode (.setRegister 0xA 0x2B), decode_encode (.shiftLeft 1 2),
    decode_encode (.storeMemory 2), decode_encode (.getKey 3), decode_encode (.randomAnd 1 0x0F)⟩

/-- Settles O2: an encoded word has the fields it was assembled from, and they select the instruction's own row. -/
theorem decodeOfEncode : Obligations.DecodeOfEncode := decode_encode

/-- Settles O3: a word that decodes is some instruction's word, and decoding gives that instruction back. -/
theorem encodeOfDecode : Obligations.EncodeOfDecode := encode_of_decode

/-- Settles O4: decoder and table both accept the recognized words. -/
theorem decoderAcceptsTheTable : Obligations.DecoderAcceptsTheTable := fun w =>
  ⟨(decode_isOk_iff w).trans (wellFormedWord_iff w).symm, fun h =>
    decode_of_not_recognized w fun hr => by rw [(wellFormedWord_iff w).2 hr] at h; cases h⟩

/-- Settles O5: a word is rejected where it is not recognized, and R107's sets are those words. -/
theorem unrecognizedWords : Obligations.UnrecognizedWords := fun w =>
  (decode_isError_iff w).trans (not_recognized_iff w)

end Sys2Proof
end

