-- ==== Sys2Proof/Proofs/Frames.lean ====
section
/-! PROOF. What each state operation changes, as the statements' frames say it: one lemma per operation, and the steps
by which a frame is carried over to an instruction's next state. -/

namespace Sys2Proof.Machine

/-! ### Frames of the operations -/

theorem Frame.holds_refl (f : Frame) (s : State) : f.Holds s s := by
  simp [Frame.Holds]

theorem Frame.holds_setV (s : State) (x : RegIx) (b : Byte) : Frame.Holds { regs := [x] } s (s.setV x b) := by
  simp +contextual [Frame.Holds, State.getV_setV]

theorem Frame.holds_setResultFlag (s : State) (x : RegIx) (b c : Byte) :
    Frame.Holds { regs := [x, Config.vf] } s (s.setResultFlag x b c) := by
  simp +contextual [Frame.Holds, State.setResultFlag, State.getV_setV, State.getV_setVF]

theorem Frame.holds_setI (s : State) (w : Word) : Frame.Holds { index := true } s (s.setI w) := by
  simp [Frame.Holds]

theorem Frame.holds_setDt (s : State) (b : Byte) : Frame.Holds { delay := true } s (s.setDt b) := by
  simp [Frame.Holds]

theorem Frame.holds_setSt (s : State) (b : Byte) : Frame.Holds { sound := true } s (s.setSt b) := by
  simp [Frame.Holds]

/-- A status write keeps every frame in which the status is open. -/
theorem Frame.holds_setStatus {f : Frame} (hf : f.status = true) (s : State) (u : Status) :
    f.Holds s (s.setStatus u) := by
  simp [Frame.Holds, hf]

theorem Frame.holds_skipIf (f : Frame) (s : State) (c : Bool) : f.Holds s (s.skipIf c) := by
  cases c <;> simp [Frame.Holds, State.skipIf]

theorem Frame.holds_push {s t : State} {w : Word} (h : s.push w = some t) : Frame.Holds { stack := true } s t := by
  obtain ⟨-, rfl⟩ := State.push_eq_some s t w h
  simp [Frame.Holds, State.getV, State.memRead, State.pix]

theorem Frame.holds_pop {s t : State} {w : Word} (h : s.pop = some (w, t)) : Frame.Holds { stack := true } s t := by
  obtain ⟨-, -, -, rfl⟩ := State.pop_eq_some s t w h
  simp [Frame.Holds, State.getV, State.memRead, State.pix]

/-- Storing registers changes the block at I only. -/
theorem Frame.holds_storeRegs (n : Nat) (s : State) :
    Frame.Holds { stored := s.blockAddrs n } s (State.storeRegs n s) := by
  have hread : ∀ a, a ∉ s.blockAddrs n → (State.storeRegs n s).memRead a = s.memRead a := fun a ha =>
    State.storeRegs_outside n s a (lt_or_le_of_notMem_block ha)
  rw [State.storeRegs_eq] at hread ⊢
  exact ⟨fun _ _ => rfl, fun _ => rfl, fun _ => ⟨rfl, rfl⟩, fun _ => rfl, fun _ => rfl, hread, fun _ _ _ => rfl,
    fun _ => rfl, fun _ => ⟨rfl, rfl, rfl, rfl⟩⟩

/-- A register is one of V0..VX where its index is at most X. -/
theorem mem_upTo (x r : RegIx) : r ∈ upTo x ↔ r.toNat ≤ x.toNat := by
  simp only [upTo, blockLength, List.mem_map, List.mem_range, Nat.lt_succ_iff]
  constructor
  · rintro ⟨k, hk, rfl⟩
    exact (Nat.mod_le _ _).trans hk
  · intro h
    exact ⟨r.toNat, h, by simp⟩

/-- Loading V0..VX changes those registers only. -/
theorem Frame.holds_loadRegs (x : RegIx) (s : State) :
    Frame.Holds { regs := upTo x } s (State.loadRegs (blockLength x) s) := by
  have hx := x.isLt
  have hreg : ∀ r, r ∉ upTo x → (State.loadRegs (blockLength x) s).getV r = s.getV r := fun r hr => by
    rw [mem_upTo] at hr
    rw [State.loadRegs_getV _ _ (by simp only [blockLength]; omega), if_neg (by simp only [blockLength]; omega)]
  rw [State.loadRegs_eq] at hreg ⊢
  exact ⟨hreg, fun _ => rfl, fun _ => ⟨rfl, rfl⟩, fun _ => rfl, fun _ => rfl, fun _ _ => rfl, fun _ _ _ => rfl,
    fun _ => rfl, fun _ => ⟨rfl, rfl, rfl, rfl⟩⟩

/-- A drawing changes VF and the pixels only. -/
theorem Drawn.holds {bit : Nat → Nat → Bool} {s t : State} (h : Drawn bit s t) :
    Frame.Holds { regs := [Config.vf], screen := true } s t := by
  obtain ⟨he, -, hreg, -⟩ := h
  rw [he] at hreg ⊢
  exact ⟨fun r hr => hreg r (List.ne_of_not_mem_cons hr), fun _ => rfl, fun _ => ⟨rfl, rfl⟩, fun _ => rfl,
    fun _ => rfl, fun _ _ => rfl, nofun, fun _ => rfl, fun _ => ⟨rfl, rfl, rfl, rfl⟩⟩

/-! ### Carrying a frame over -/

/-- A frame does not speak of PC. -/
theorem Frame.Holds.setPc {f : Frame} {s t : State} (h : f.Holds s t) (w : Word) : f.Holds s (t.setPc w) := h

/-- A frame holds with the status open where it holds with the status kept. -/
theorem Frame.Holds.openStatus {f : Frame} {s t : State} (h : f.Holds s t) :
    Frame.Holds { f with status := true } s t := by
  obtain ⟨hv, hi, hstack, hdt, hst, hmem, hpix, -, hports⟩ := h
  exact ⟨hv, hi, hstack, hdt, hst, hmem, hpix, nofun, hports⟩

theorem Frame.Holds.trans {f : Frame} {s t u : State} (h : f.Holds s t) (h' : f.Holds t u) : f.Holds s u := by
  obtain ⟨hv, hi, hstack, hdt, hst, hmem, hpix, hstatus, hports⟩ := h
  obtain ⟨hv', hi', hstack', hdt', hst', hmem', hpix', hstatus', hports'⟩ := h'
  refine ⟨fun r hr => (hv' r hr).trans (hv r hr), fun e => (hi' e).trans (hi e), fun e => ?_,
    fun e => (hdt' e).trans (hdt e), fun e => (hst' e).trans (hst e), fun a ha => (hmem' a ha).trans (hmem a ha),
    fun e x y => (hpix' e x y).trans (hpix e x y), fun e => (hstatus' e).trans (hstatus e), fun e => ?_⟩
  · rw [(hstack' e).1, (hstack' e).2]
    exact hstack e
  · obtain ⟨hk, hr, ht, hd⟩ := hports' e
    rw [hk, hr, ht, hd]
    exact hports e

/-- The flag register cleared before a change of VF is part of that change. -/
theorem Frame.Holds.of_setVF {f : Frame} {s t : State} {b : Byte} (hf : Config.vf ∈ f.regs)
    (h : f.Holds (s.setVF b) t) : f.Holds s t := by
  obtain ⟨hv, hrest⟩ := h
  refine ⟨fun r hr => (hv r hr).trans ?_, hrest⟩
  exact State.getV_setV_ne s _ r b fun e => hr (e ▸ hf)

end Sys2Proof.Machine
end

