-- ==== Sys2Proof/Proofs/ControlFlow.lean ====
section
/-! PROOF. Jumps, the call stack, skips and key tests (41_control_flow.md; 45_timers_keys_random.md R241, R242, R248):
what each answers, and the statements O26 to O37. -/

namespace Sys2Proof.Machine

/-! ### Jumps -/

@[simp] theorem addrOperand_toNat (nnn : Addr12) : (addrOperand nnn).toNat = nnn.toNat :=
  BitVec.toNat_setWidth_of_le (by decide)

@[simp] theorem zext16_toNat (b : Byte) : (zext16 b).toNat = b.toNat :=
  BitVec.toNat_setWidth_of_le (by decide)

theorem exec_jump (nnn : Addr12) (s : State) : exec (.jump nnn) s = .next (s.advance.setPc (addrOperand nnn)) := rfl

theorem exec_jumpWithOffset (nnn : Addr12) (s : State) :
    exec (.jumpWithOffset nnn) s = .next (s.advance.setPc (addrOperand nnn + zext16 (s.getV 0x0#4))) := rfl

/-- Setting PC, whatever it held, changes nothing else. -/
theorem Frame.holds_advance_setPc (f : Frame) (s : State) (w : Word) : f.Holds s (s.advance.setPc w) :=
  (Frame.holds_refl f s).setPc w

/-- A 12-bit address and a byte add up below 2^16. -/
theorem addrOperand_add_zext16_toNat (nnn : Addr12) (b : Byte) :
    (addrOperand nnn + zext16 b).toNat = nnn.toNat + b.toNat := by
  rw [BitVec.toNat_add, addrOperand_toNat, zext16_toNat]
  exact Nat.mod_eq_of_lt (by omega)

/-! ### The call stack -/

/-- A push with room writes slot SP. -/
theorem State.push_of_lt (s : State) (w : Word) (h : s.sp.val < 16) :
    s.push w = some { s with stack := s.stack.set s.sp.val w, sp := ⟨s.sp.val + 1, by omega⟩ } := dif_pos h

/-- A pop with an entry reads the slot below SP. -/
theorem State.pop_of_pos (s : State) (h : 0 < s.sp.val) :
    s.pop = some (s.stack[s.sp.val - 1]'(by omega), { s with sp := ⟨s.sp.val - 1, by omega⟩ }) := dif_pos h

theorem exec_call_of_push {s t : State} (nnn : Addr12) (h : s.advance.push (s.pc + 2#16) = some t) :
    exec (.call nnn) s = .next (t.setPc (addrOperand nnn)) := by
  simp [exec, execCall, h]

theorem exec_call_of_full (nnn : Addr12) (s : State) (h : s.sp.val = 16) :
    exec (.call nnn) s = .next (s.setStatus (.faulted (.stackOverflow s.pc (encode (.call nnn))))) := by
  have hnone : s.advance.push s.advance.pc = none := (State.push_eq_none _ _).2 h
  simp only [exec, execCall, hnone, raise]

theorem exec_ret_of_pop {s t : State} {w : Word} (h : s.advance.pop = some (w, t)) :
    exec .ret s = .next (t.setPc w) := by
  simp [exec, execRet, h]

theorem exec_ret_of_empty (s : State) (h : s.sp.val = 0) :
    exec .ret s = .next (s.setStatus (.faulted (.stackUnderflow s.pc (encode .ret)))) := by
  have hnone : s.advance.pop = none := (State.pop_eq_none _).2 h
  simp only [exec, execRet, hnone, raise]

/-! ### Skips -/

theorem exec_skipIfEqual (x : RegIx) (nn : Byte) (s : State) :
    exec (.skipIfEqual x nn) s = .next (s.advance.skipIf (s.getV x == nn)) := rfl

theorem exec_skipIfNotEqual (x : RegIx) (nn : Byte) (s : State) :
    exec (.skipIfNotEqual x nn) s = .next (s.advance.skipIf (s.getV x != nn)) := rfl

theorem exec_skipIfRegistersEqual (x y : RegIx) (s : State) :
    exec (.skipIfRegistersEqual x y) s = .next (s.advance.skipIf (s.getV x == s.getV y)) := rfl

theorem exec_skipIfRegistersNotEqual (x y : RegIx) (s : State) :
    exec (.skipIfRegistersNotEqual x y) s = .next (s.advance.skipIf (s.getV x != s.getV y)) := rfl

/-- After the fetch's increment a skip leaves PC at A + 4, no skip leaves it at A + 2. -/
theorem State.advance_skipIf_pc (s : State) (c : Bool) :
    (s.advance.skipIf c).pc = if c = true then s.pc + 4 else s.pc + 2 := by
  cases c
  · rfl
  · exact BitVec.add_assoc s.pc 2#16 2#16

/-- A skip changes PC only. -/
theorem Frame.holds_advance_skipIf (f : Frame) (s : State) (c : Bool) : f.Holds s (s.advance.skipIf c) :=
  (Frame.holds_skipIf f s.advance c).of_advance

/-! ### Key tests -/

theorem State.keyOperand_of_eq {s : State} {x k : RegIx} (h : (s.getV x).toNat = k.toNat) :
    s.keyOperand x = some k := by
  have hk := k.isLt
  rw [State.keyOperand, if_pos (by omega)]
  congr 1
  apply BitVec.eq_of_toNat_eq
  rw [BitVec.toNat_setWidth, h]
  exact Nat.mod_eq_of_lt hk

theorem State.keyOperand_of_gt {s : State} {x : RegIx} (h : 0x0F < (s.getV x).toNat) : s.keyOperand x = none :=
  if_neg h.not_ge

/-- A key test of V[X] up to 0x0F skips where the key's level is the one it asks for. -/
theorem keyTest_of_eq (w : Word) {x k : RegIx} (pressed : Bool) {s : State} (h : (s.getV x).toNat = k.toNat) :
    keyTest w x pressed s = .next (s.advance.skipIf (s.key k == pressed)) := by
  rw [keyTest, State.keyOperand_of_eq h]

/-- A key test of V[X] above 0x0F raises its fault. -/
theorem keyTest_of_gt (w : Word) {x : RegIx} (pressed : Bool) {s : State} (h : 0x0F < (s.getV x).toNat) :
    keyTest w x pressed s = .next (s.setStatus (.faulted (.keyIndexOutOfRange s.pc w (s.getV x)))) := by
  rw [keyTest, State.keyOperand_of_gt h, raise]

end Sys2Proof.Machine

namespace Sys2Proof

open Sys2Proof.Machine

/-- Settles O26: the operand widened is the operand, and a jump writes PC alone. -/
theorem jumpSetsPc : Obligations.JumpSetsPc := fun nnn s =>
  ⟨decode_encode (.jump nnn), _, exec_jump nnn s, addrOperand_toNat nnn, Frame.holds_advance_setPc _ s _⟩

/-- Settles O27: PC gets the value it had before the increment. -/
theorem selfJumpIsFixed : Obligations.SelfJumpIsFixed := fun nnn s h => by
  have hpc : addrOperand nnn = s.pc := BitVec.eq_of_toNat_eq ((addrOperand_toNat nnn).trans h.symm)
  rw [exec_jump, hpc]
  rfl

/-- Settles O28: the sum fits into PC. -/
theorem jumpWithOffsetAddsV0 : Obligations.JumpWithOffsetAddsV0 := fun nnn s =>
  ⟨decode_encode (.jumpWithOffset nnn), _, exec_jumpWithOffset nnn s, addrOperand_add_zext16_toNat nnn _,
    Frame.holds_advance_setPc _ s _⟩

/-- Settles O29: the push writes A + 2 to slot SP and raises SP, the jump then writes PC. -/
theorem callPushesTheReturnAddress : Obligations.CallPushesTheReturnAddress := fun nnn s h => by
  have hpush := State.push_of_lt s.advance (s.pc + 2#16) h
  refine ⟨_, exec_call_of_push nnn hpush, addrOperand_toNat nnn, rfl, fun j hj => ?_,
    (Frame.holds_push hpush).of_advance.setPc _⟩
  exact (Vector.getElem_set h hj).trans (by simp [eq_comm])

/-- Settles O30: a full stack takes no push. -/
theorem callOverflows : Obligations.CallOverflows := exec_call_of_full

/-- Settles O31: the pop lowers SP and answers the slot it then names. -/
theorem returnPopsTheAddress : Obligations.ReturnPopsTheAddress := fun s h => by
  have hpop := State.pop_of_pos s.advance h
  refine ⟨_, ?_, exec_ret_of_pop hpop, Nat.sub_add_cancel h, rfl, fun _ _ => rfl,
    (Frame.holds_pop hpop).of_advance.setPc _⟩
  exact (Nat.sub_lt h Nat.one_pos).trans_le (Nat.le_of_lt_succ s.sp.isLt)

/-- Settles O32: an empty stack has nothing to pop. -/
theorem returnUnderflows : Obligations.ReturnUnderflows := exec_ret_of_empty

/-- Settles O33: the return pops the slot the call pushed to, since SP names it again. -/
theorem returnUndoesCall : Obligations.ReturnUndoesCall := fun nnn s t h hcall => by
  obtain ⟨t', ht', -, hsp, hstack, hframe⟩ := callPushesTheReturnAddress nnn s h
  obtain rfl : t' = t := by simpa [ht'] using hcall
  obtain ⟨u, hj, hret, hsp', hpc, -, hframe'⟩ := returnPopsTheAddress t' (by omega)
  have hu : u.sp.val = s.sp.val := by omega
  exact ⟨u, hret, by rw [hpc, hstack, if_pos hu], Fin.ext hu, hframe.trans hframe'⟩

/-- Settles O34: the skip's condition is the comparison with NN. -/
theorem immediateSkips : Obligations.ImmediateSkips := fun x nn s =>
  ⟨⟨decode_encode (.skipIfEqual x nn), _, exec_skipIfEqual x nn s, by simp [State.advance_skipIf_pc],
      Frame.holds_advance_skipIf _ s _⟩,
    decode_encode (.skipIfNotEqual x nn), _, exec_skipIfNotEqual x nn s, by simp [State.advance_skipIf_pc],
      Frame.holds_advance_skipIf _ s _⟩

/-- A word of family 5 or 9 whose last nibble is not 0 is no instruction's (30_encoding.md R107). -/
theorem decode_formXYN_of_ne {op : BitVec 4} (hop : op = 0x5#4 ∨ op = 0x9#4) (x y : RegIx) {n : Nibble} (hn : n ≠ 0) :
    decode (formXYN op x y n) = .error (.unrecognized (formXYN op x y n)) := by
  refine decode_of_not_recognized _ ?_
  have hne := ne_family0 (formXYN op x y n)
  rw [Recognized, opField_formXYN, nField_formXYN]
  rw [opField_formXYN] at hne
  obtain rfl | rfl := hop <;> simpa [NibbleOp, ByteOp, hne] using hn

/-- Settles O35: the skip's condition is the comparison of the two registers. -/
theorem registerSkips : Obligations.RegisterSkips := fun x y s =>
  ⟨⟨decode_encode (.skipIfRegistersEqual x y), _, exec_skipIfRegistersEqual x y s,
      by simp [State.advance_skipIf_pc], Frame.holds_advance_skipIf _ s _⟩,
    fun _ => decode_formXYN_of_ne (.inl rfl) x y,
    ⟨decode_encode (.skipIfRegistersNotEqual x y), _, exec_skipIfRegistersNotEqual x y s,
      by simp [State.advance_skipIf_pc], Frame.holds_advance_skipIf _ s _⟩,
    fun _ => decode_formXYN_of_ne (.inr rfl) x y⟩

/-- Settles O36: a value up to 0x0F is the key's index, and the skip's condition is its level. -/
theorem keySkips : Obligations.KeySkips := fun x k s h =>
  ⟨⟨decode_encode (.skipIfKey x), _, keyTest_of_eq _ true h, by simp [State.advance_skipIf_pc],
      Frame.holds_advance_skipIf _ s _⟩,
    decode_encode (.skipIfNotKey x), _, keyTest_of_eq _ false h, by cases s.key k <;> simp [State.advance_skipIf_pc],
      Frame.holds_advance_skipIf _ s _⟩

/-- Settles O37: a value above 0x0F names no key. -/
theorem keyIndexOutOfRangeFaults : Obligations.KeyIndexOutOfRangeFaults := fun _ _ h =>
  ⟨keyTest_of_gt _ true h, keyTest_of_gt _ false h⟩

end Sys2Proof
end

