-- ==== Sys2Proof/Proofs/Alu.lean ====
section
/-! PROOF. The ALU (42_alu.md): the two shapes of its next states, the values of its flags, and the statements
O38 to O44. -/

namespace Sys2Proof.Machine

/-! ### A result without a flag -/

/-- The shape without a flag changes its register only. -/
theorem Frame.holds_advance_setV (s : State) (x : RegIx) (b : Byte) :
    Frame.Holds { regs := [x] } s (s.advance.setV x b) :=
  (Frame.holds_setV s.advance x b).of_advance

theorem exec_setRegister (x : RegIx) (nn : Byte) (s : State) :
    exec (.setRegister x nn) s = .next (s.advance.setV x nn) := rfl

theorem exec_copyRegister (x y : RegIx) (s : State) :
    exec (.copyRegister x y) s = .next (s.advance.setV x (s.getV y)) := rfl

theorem exec_addImmediate (x : RegIx) (nn : Byte) (s : State) :
    exec (.addImmediate x nn) s = .next (s.advance.setV x (s.getV x + nn)) := rfl

theorem exec_or (x y : RegIx) (s : State) :
    exec (.or x y) s = .next (s.advance.setV x (s.getV x ||| s.getV y)) := rfl

theorem exec_and (x y : RegIx) (s : State) :
    exec (.and x y) s = .next (s.advance.setV x (s.getV x &&& s.getV y)) := rfl

theorem exec_xor (x y : RegIx) (s : State) :
    exec (.xor x y) s = .next (s.advance.setV x (s.getV x ^^^ s.getV y)) := rfl

theorem exec_subtract (x y : RegIx) (s : State) :
    exec (.subtract x y) s = .next (s.advance.setV x (s.getV x - s.getV y)) := rfl

theorem exec_reverseSubtract (x y : RegIx) (s : State) :
    exec (.reverseSubtract x y) s = .next (s.advance.setV x (s.getV y - s.getV x)) := rfl

/-! ### A result and a flag -/

/-- The shape with a flag changes its register and VF only. -/
theorem Frame.holds_advance_setResultFlag (s : State) (x : RegIx) (b c : Byte) :
    Frame.Holds { regs := [x, Config.vf] } s (s.advance.setResultFlag x b c) :=
  (Frame.holds_setResultFlag s.advance x b c).of_advance

theorem exec_addRegisters (x y : RegIx) (s : State) : exec (.addRegisters x y) s =
    .next (s.advance.setResultFlag x (s.getV x + s.getV y) (carryFlag (s.getV x) (s.getV y))) := rfl

theorem exec_shiftRight (x y : RegIx) (s : State) : exec (.shiftRight x y) s =
    .next (s.advance.setResultFlag x (s.getV y >>> 1) (rightShiftFlag (s.getV y))) := rfl

theorem exec_shiftLeft (x y : RegIx) (s : State) : exec (.shiftLeft x y) s =
    .next (s.advance.setResultFlag x (s.getV y <<< 1) (leftShiftFlag (s.getV y))) := rfl

/-- The flag is written last, so VF holds it whatever X is. -/
@[simp] theorem State.getV_setResultFlag_vf (s : State) (x : RegIx) (b c : Byte) :
    (s.setResultFlag x b c).getV 0xF#4 = c := State.getV_setV_same _ _ _

theorem State.getV_setResultFlag_of_ne (s : State) {x : RegIx} (b c : Byte) (h : x ≠ 0xF#4) :
    (s.setResultFlag x b c).getV x = b := by
  rw [State.setResultFlag, State.getV_setVF, if_neg h, State.getV_setV_same]

theorem carryFlag_toNat (a b : Byte) : (carryFlag a b).toNat = if 256 ≤ a.toNat + b.toNat then 1 else 0 := by
  by_cases h : 256 ≤ a.toNat + b.toNat <;> simp [carryFlag, flagByte, h]

theorem rightShiftFlag_toNat (a : Byte) : (rightShiftFlag a).toNat = a.toNat % 2 := by
  rw [rightShiftFlag, BitVec.toNat_and]
  exact Nat.and_one_is_mod _

theorem leftShiftFlag_toNat (a : Byte) : (leftShiftFlag a).toNat = a.toNat / 128 := by
  rw [leftShiftFlag, BitVec.toNat_and, BitVec.toNat_ushiftRight, Nat.shiftRight_eq_div_pow]
  exact (Nat.and_one_is_mod _).trans (by omega)

end Sys2Proof.Machine

namespace Sys2Proof

open Sys2Proof.Machine

/-- Settles O38: the byte written is the operand's. -/
theorem registerSetAndCopy : Obligations.RegisterSetAndCopy := fun x y nn s =>
  ⟨⟨decode_encode (.setRegister x nn), _, exec_setRegister x nn s, State.getV_setV_same _ x _, rfl,
      Frame.holds_advance_setV s x _⟩,
    decode_encode (.copyRegister x y), _, exec_copyRegister x y s, State.getV_setV_same _ x _, rfl,
      Frame.holds_advance_setV s x _⟩

/-- Settles O39: a byte sum is the sum modulo 256. -/
theorem addImmediateWraps : Obligations.AddImmediateWraps := fun x nn s =>
  ⟨decode_encode (.addImmediate x nn), _, exec_addImmediate x nn s, by rw [State.getV_setV_same, BitVec.toNat_add], rfl,
    Frame.holds_advance_setV s x _⟩

/-- Settles O40: the three operations work bit by bit. -/
theorem bitwiseOperations : Obligations.BitwiseOperations := fun x y s =>
  ⟨⟨decode_encode (.or x y), _, exec_or x y s, fun b => by rw [State.getV_setV_same, BitVec.getLsbD_or], rfl,
      Frame.holds_advance_setV s x _⟩,
    ⟨decode_encode (.and x y), _, exec_and x y s, fun b => by rw [State.getV_setV_same, BitVec.getLsbD_and], rfl,
      Frame.holds_advance_setV s x _⟩,
    decode_encode (.xor x y), _, exec_xor x y s, fun b => by rw [State.getV_setV_same, BitVec.getLsbD_xor], rfl,
      Frame.holds_advance_setV s x _⟩

/-- Settles O41: the carry decides VF, the sum modulo 256 is the result. -/
theorem addRegistersCarries : Obligations.AddRegistersCarries := fun x y s =>
  ⟨decode_encode (.addRegisters x y), _, exec_addRegisters x y s,
    fun hx => by rw [State.getV_setResultFlag_of_ne _ _ _ hx, BitVec.toNat_add],
    by rw [State.getV_setResultFlag_vf, carryFlag_toNat], rfl, Frame.holds_advance_setResultFlag s x _ _⟩

/-- A byte difference is the difference modulo 256. -/
theorem toNat_sub_byte (a b : Byte) : (a - b).toNat = (a.toNat + 256 - b.toNat) % 256 := by
  rw [BitVec.toNat_sub]
  omega

/-- Settles O42: both differences are taken modulo 256. -/
theorem subtractionsWrapWithoutFlag : Obligations.SubtractionsWrapWithoutFlag := fun x y s =>
  ⟨⟨decode_encode (.subtract x y), _, exec_subtract x y s, by rw [State.getV_setV_same, toNat_sub_byte], rfl,
      Frame.holds_advance_setV s x _⟩,
    decode_encode (.reverseSubtract x y), _, exec_reverseSubtract x y s,
      by rw [State.getV_setV_same, toNat_sub_byte], rfl, Frame.holds_advance_setV s x _⟩

/-- Settles O43: a right shift halves, and the bit it drops is the remainder. -/
theorem shiftRightHalves : Obligations.ShiftRightHalves := fun x y s =>
  ⟨decode_encode (.shiftRight x y), _, exec_shiftRight x y s,
    fun hx => by
      rw [State.getV_setResultFlag_of_ne _ _ _ hx, BitVec.toNat_ushiftRight, Nat.shiftRight_eq_div_pow, pow_one],
    by rw [State.getV_setResultFlag_vf, rightShiftFlag_toNat], rfl, Frame.holds_advance_setResultFlag s x _ _⟩

/-- Settles O44: a left shift doubles modulo 256, and the bit it drops is bit 7. -/
theorem shiftLeftDoubles : Obligations.ShiftLeftDoubles := fun x y s =>
  ⟨decode_encode (.shiftLeft x y), _, exec_shiftLeft x y s,
    fun hx => by
      rw [State.getV_setResultFlag_of_ne _ _ _ hx, BitVec.toNat_shiftLeft, Nat.shiftLeft_eq, pow_one, Nat.mul_comm],
    by rw [State.getV_setResultFlag_vf, leftShiftFlag_toNat], rfl, Frame.holds_advance_setResultFlag s x _ _⟩

end Sys2Proof
end

