-- ==== Sys2Proof/Proofs/IndexMemory.lean ====
section
/-! PROOF. The index register and the memory blocks (43_index_memory.md): the two outcomes of a block instruction, what
FX33, FX55 and FX65 store and load, the fetch after a store, and the statements O15 and O45 to O51. -/

namespace Sys2Proof.Machine

/-! ### The index register -/

theorem exec_setIndex (nnn : Addr12) (s : State) :
    exec (.setIndex nnn) s = .next (s.advance.setI (addrOperand nnn)) := rfl

theorem exec_addToIndex (x : RegIx) (s : State) :
    exec (.addToIndex x) s = .next (s.advance.setI (s.i + zext16 (s.getV x))) := rfl

theorem exec_fontCharacter (x : RegIx) (s : State) :
    exec (.fontCharacter x) s = .next (s.advance.setI (glyphAddr (s.getV x))) := rfl

/-- An index write changes I only. -/
theorem Frame.holds_advance_setI (s : State) (w : Word) : Frame.Holds { index := true } s (s.advance.setI w) :=
  (Frame.holds_setI s.advance w).of_advance

theorem glyphAddr_toNat (b : Byte) : (glyphAddr b).toNat = 0x050 + 5 * (b.toNat % 16) := by
  have hlow : (b &&& 0x0F#8).toNat = b.toNat % 16 := by
    rw [BitVec.toNat_and]
    exact Nat.and_two_pow_sub_one_eq_mod b.toNat 4
  rw [glyphAddr, hlow, BitVec.toNat_ofNat]
  exact Nat.mod_eq_of_lt (by simp only [Config.fontBase]; omega)

/-! ### The two outcomes of a block instruction (20_memory.md R73, R76) -/

theorem checkedBlock_of_inside {s : State} {n : Nat} (h : n = 0 ∨ s.i.toNat + n ≤ 4096) (w : Word) (done : State) :
    checkedBlock s w n done = .next done :=
  (checkedBlock_eq s w n done).trans (if_pos h)

theorem checkedBlock_of_outside {s : State} {n : Nat} (hn : n ≠ 0) (h : 4096 < s.i.toNat + n) (w : Word)
    (done : State) : checkedBlock s w n done = .next (s.setStatus (.faulted (.memoryAccessViolation s.pc (some w)
      (if 0xFFF < s.i.toNat then s.i.toNat else 0x1000)))) :=
  (checkedBlock_eq s w n done).trans (if_neg (by omega))

/-! ### FX33 -/

/-- The state after FX33: PC advanced, the digits stored at I. -/
def State.storeDigits (s : State) (x : RegIx) : State :=
  { s.advance with mem := s.mem.writeList s.i.toNat (decimalDigits (s.getV x)) }

theorem exec_binaryDecimalConversion (x : RegIx) (s : State) : exec (.binaryDecimalConversion x) s =
    checkedBlock s (encode (.binaryDecimalConversion x)) 3 (s.storeDigits x) := rfl

theorem Frame.holds_storeDigits (s : State) (x : RegIx) :
    Frame.Holds { stored := s.blockAddrs 3 } s (s.storeDigits x) :=
  (Frame.holds_writeList s s.i.toNat (decimalDigits (s.getV x))).setPc _

/-- The k-th of the three bytes is the k-th digit. -/
theorem State.memRead_storeDigits {s : State} (hs : s.mem.wf) (hi : s.i.toNat + 2 ≤ 0xFFF) (x : RegIx) {k : Nat}
    (hk : k < 3) : (s.storeDigits x).memRead (s.i.toNat + k) = (decimalDigits (s.getV x))[k] :=
  Memory.read_writeList (decimalDigits (s.getV x)) s.mem hs s.i.toNat k
    (by simp only [decimalDigits, List.length]; omega) hk

theorem ofNat_byte_toNat {n : Nat} (h : n < 256) : (BitVec.ofNat 8 n).toNat = n :=
  (BitVec.toNat_ofNat n 8).trans (Nat.mod_eq_of_lt h)

/-! ### FX55 and FX65 -/

theorem exec_storeMemory (x : RegIx) (s : State) : exec (.storeMemory x) s =
    checkedBlock s (encode (.storeMemory x)) (blockLength x) (State.storeRegs (blockLength x) s.advance) := rfl

theorem exec_loadMemory (x : RegIx) (s : State) : exec (.loadMemory x) s =
    checkedBlock s (encode (.loadMemory x)) (blockLength x) (State.loadRegs (blockLength x) s.advance) := rfl

theorem blockLength_inside {s : State} {x : RegIx} (h : s.i.toNat + x.toNat ≤ 0xFFF) :
    s.i.toNat + blockLength x ≤ 4096 := by
  rw [blockLength]
  omega

theorem blockLength_outside {s : State} {x : RegIx} (h : 0xFFF < s.i.toNat + x.toNat) :
    4096 < s.i.toNat + blockLength x := by
  rw [blockLength]
  omega

@[simp] theorem State.storeRegs_pc (n : Nat) (s : State) : (State.storeRegs n s).pc = s.pc := by
  rw [State.storeRegs_eq]

@[simp] theorem State.storeRegs_status (n : Nat) (s : State) : (State.storeRegs n s).status = s.status := by
  rw [State.storeRegs_eq]

@[simp] theorem State.loadRegs_pc (n : Nat) (s : State) : (State.loadRegs n s).pc = s.pc := by
  rw [State.loadRegs_eq]

@[simp] theorem State.loadRegs_status (n : Nat) (s : State) : (State.loadRegs n s).status = s.status := by
  rw [State.loadRegs_eq]

@[simp] theorem State.loadRegs_mem (n : Nat) (s : State) : (State.loadRegs n s).mem = s.mem := by
  rw [State.loadRegs_eq]

/-- The block that FX55 stores holds V0..VX. -/
theorem State.memRead_storeRegs_blockLength {s : State} (hs : s.mem.wf) {x : RegIx} (hi : s.i.toNat + x.toNat ≤ 0xFFF)
    {k : Nat} (hk : k ≤ x.toNat) :
    (State.storeRegs (blockLength x) s.advance).memRead (s.i.toNat + k) = s.getV (BitVec.ofNat 4 k) :=
  State.storeRegs_read (blockLength x) s.advance hs (blockLength_inside hi) k (Nat.lt_succ_of_le hk)

/-- FX65 loads V0..VX and keeps the registers above. -/
theorem State.getV_loadRegs_blockLength (s : State) (x r : RegIx) :
    (State.loadRegs (blockLength x) s.advance).getV r =
      if r.toNat ≤ x.toNat then s.memRead (s.i.toNat + r.toNat) else s.getV r := by
  rw [State.loadRegs_getV (blockLength x) _ x.isLt, blockLength]
  simp only [Nat.lt_succ_iff]
  rfl

/-- A fetch from two bytes that exist. -/
theorem State.fetch_setPc_of_inside (s : State) {a : Nat} (ha : a + 1 ≤ 0xFFF) :
    (s.setPc (BitVec.ofNat 16 a)).fetch = .ok (s.memRead a ++ s.memRead (a + 1)) := by
  have hpc : (s.setPc (BitVec.ofNat 16 a)).pc.toNat = a :=
    (BitVec.toNat_ofNat a 16).trans (Nat.mod_eq_of_lt (by omega))
  rw [State.fetch_eq, hpc, if_pos ha]
  rfl

end Sys2Proof.Machine

namespace Sys2Proof

open Sys2Proof.Machine

/-- Settles O45: the operand widened is the operand, and a 16-bit sum is the sum modulo 2^16. -/
theorem indexSetAndAdd : Obligations.IndexSetAndAdd := fun nnn x s =>
  ⟨⟨decode_encode (.setIndex nnn), _, exec_setIndex nnn s, addrOperand_toNat nnn, rfl, Frame.holds_advance_setI s _⟩,
    decode_encode (.addToIndex x), _, exec_addToIndex x s, by rw [State.setI_i, BitVec.toNat_add, zext16_toNat], rfl,
      Frame.holds_advance_setI s _⟩

/-- Settles O46: the glyph's address stays below 2^16. -/
theorem fontCharacterAddressesTheGlyph : Obligations.FontCharacterAddressesTheGlyph := fun x s =>
  ⟨decode_encode (.fontCharacter x), _, exec_fontCharacter x s, glyphAddr_toNat _, rfl, Frame.holds_advance_setI s _⟩

/-- Settles O47: the three bytes read back are the digits, each below 256. -/
theorem decimalDigitsStored : Obligations.DecimalDigitsStored := fun x s hs hi => by
  have hv := (s.getV x).isLt
  have hread : ∀ k (hk : k < 3), _ := fun k hk => State.memRead_storeDigits hs hi x hk
  refine ⟨s.storeDigits x, checkedBlock_of_inside (.inr (by omega)) _ _, ?_, ?_, ?_, rfl, Frame.holds_storeDigits s x⟩
  · exact (congrArg BitVec.toNat (hread 0 (by decide))).trans (ofNat_byte_toNat (by omega))
  · exact (congrArg BitVec.toNat (hread 1 (by decide))).trans (ofNat_byte_toNat (by omega))
  · exact (congrArg BitVec.toNat (hread 2 (by decide))).trans (ofNat_byte_toNat (by omega))

/-- Settles O48: the block exists, so the check passes and the loop stores it. -/
theorem storeMemoryStoresTheBlock : Obligations.StoreMemoryStoresTheBlock := fun x s hs hi =>
  ⟨_, checkedBlock_of_inside (.inr (blockLength_inside hi)) _ _,
    fun _ hk => State.memRead_storeRegs_blockLength hs hi hk, State.storeRegs_pc _ _,
    (Frame.holds_storeRegs (blockLength x) s.advance).of_advance⟩

/-- Settles O49: the block exists, so the check passes and the loop loads it. -/
theorem loadMemoryLoadsTheBlock : Obligations.LoadMemoryLoadsTheBlock := fun x s hi =>
  ⟨_, checkedBlock_of_inside (.inr (blockLength_inside hi)) _ _, State.getV_loadRegs_blockLength s x,
    State.loadRegs_pc _ _, (Frame.holds_loadRegs x s.advance).of_advance⟩

/-- Settles O50: each of the four checks its block before anything else. -/
theorem blockOutsideMemoryFaults : Obligations.BlockOutsideMemoryFaults := fun x y n s =>
  ⟨fun h => checkedBlock_of_outside (by decide) (by omega) _ _,
    fun h => checkedBlock_of_outside (Nat.succ_ne_zero x.toNat) (blockLength_outside h) _ _,
    fun h => checkedBlock_of_outside (Nat.succ_ne_zero x.toNat) (blockLength_outside h) _ _,
    fun hn h => checkedBlock_of_outside hn.ne' (by omega) _ _⟩

/-- Settles O51: each register is loaded from the byte it was stored to. -/
theorem storeThenLoadRoundTrip : Obligations.StoreThenLoadRoundTrip := fun x s t u hs hi hstore hui hbytes => by
  obtain ⟨t', ht', hstored, -⟩ := storeMemoryStoresTheBlock x s hs hi
  obtain rfl : t' = t := by simpa [ht'] using hstore
  obtain ⟨w, hw, hloaded, -⟩ := loadMemoryLoadsTheBlock x u (by rwa [hui])
  refine ⟨w, hw, fun r hr => ?_⟩
  rw [hloaded, if_pos hr, hui, hbytes _ hr, hstored _ hr, BitVec.ofNat_toNat, BitVec.setWidth_eq]

/-- Settles O15: the fetch reads the memory FX55 has stored to. -/
theorem fetchSeesStoredBytes : Obligations.FetchSeesStoredBytes := fun s t x k hs hi hk hstore => by
  obtain ⟨t', ht', hstored, -⟩ := storeMemoryStoresTheBlock x s hs hi
  obtain rfl : t' = t := by simpa [ht'] using hstore
  rw [State.fetch_setPc_of_inside t' (by omega), hstored k (by omega), Nat.add_assoc, hstored (k + 1) hk]

end Sys2Proof
end

