-- ==== Sys2Proof/Proofs/Display.lean ====
section
/-! PROOF. The draw (44_display.md R221 to R223): the sprite as a drawing on the screen, and the statements O53
and O54. -/

namespace Sys2Proof.Machine

/-- The state after DXYN: PC advanced, VF cleared, the rows drawn from the origin that the old registers name. -/
def State.drawSprite (s : State) (x y : RegIx) (n : Nibble) : State :=
  drawRows (s.originX x) (s.originY y) n.toNat (s.advance.setVF 0x00#8)

theorem exec_draw (x y : RegIx) (n : Nibble) (s : State) : exec (.draw x y n) s =
    checkedBlock s (encode (.draw x y n)) n.toNat (s.drawSprite x y n) := rfl

/-- Where the sprite's rows exist the draw answers its drawing. -/
theorem exec_draw_of_inside {n : Nibble} {s : State} (h : n = 0 ∨ s.i.toNat + n.toNat - 1 ≤ 0xFFF) (x y : RegIx) :
    exec (.draw x y n) s = .next (s.drawSprite x y n) := by
  refine checkedBlock_of_inside ?_ _ _
  obtain rfl | h := h
  · exact .inl rfl
  · omega

/-- The draw inverts the pixels under the sprite's bits, on the screen as it was. -/
theorem State.drawSprite_drawn (s : State) (x y : RegIx) (n : Nibble) :
    Drawn (s.spriteBit (s.originX x) (s.originY y) n.toNat) (s.advance.setVF 0x00#8) (s.drawSprite x y n) :=
  drawRows_drawn (s.originX x) (s.originY y) n.toNat (s.advance.setVF 0x00#8)

theorem State.pix_drawSprite (s : State) (x y : RegIx) (n : Nibble) (c d : Nat) :
    (s.drawSprite x y n).pix c d = (s.pix c d ^^ s.spriteBit (s.originX x) (s.originY y) n.toNat c d) := by
  obtain ⟨-, hpix, -⟩ := s.drawSprite_drawn x y n
  exact hpix c d

/-- VF is 1 where a sprite bit met a lit pixel. -/
theorem State.drawSprite_vf_of_collision (s : State) (x y : RegIx) (n : Nibble)
    (h : ∃ c d, s.spriteBit (s.originX x) (s.originY y) n.toNat c d = true ∧ s.pix c d = true) :
    (s.drawSprite x y n).getV 0xF#4 = 1 := by
  obtain ⟨-, -, -, hhit, -⟩ := s.drawSprite_drawn x y n
  exact hhit h

/-- VF is 0, as it was cleared, where none did. -/
theorem State.drawSprite_vf_of_no_collision (s : State) (x y : RegIx) (n : Nibble)
    (h : ∀ c d, s.spriteBit (s.originX x) (s.originY y) n.toNat c d = true → s.pix c d = false) :
    (s.drawSprite x y n).getV 0xF#4 = 0 := by
  obtain ⟨-, -, -, -, hmiss⟩ := s.drawSprite_drawn x y n
  exact (hmiss h).trans (State.getVF_setVF _ _)

/-- The draw changes VF and the pixels only. -/
theorem Frame.holds_drawSprite (s : State) (x y : RegIx) (n : Nibble) :
    Frame.Holds { regs := [Config.vf], screen := true } s (s.drawSprite x y n) :=
  ((s.drawSprite_drawn x y n).holds.of_setVF (List.mem_singleton_self _)).of_advance

/-- The draw keeps every field but PC, the registers and the display. -/
theorem State.drawSprite_eq (s : State) (x y : RegIx) (n : Nibble) : s.drawSprite x y n =
    { s.advance with v := (s.drawSprite x y n).v, display := (s.drawSprite x y n).display } := by
  obtain ⟨he, -⟩ := s.drawSprite_drawn x y n
  exact he

/-- The sprite at I is the same after a draw. -/
theorem State.spriteBit_drawSprite (s : State) (x y : RegIx) (n : Nibble) :
    (s.drawSprite x y n).spriteBit = s.spriteBit := by
  rw [State.drawSprite_eq]
  rfl

end Sys2Proof.Machine

namespace Sys2Proof

open Sys2Proof.Machine

/-- Settles O53: a pixel goes off exactly where a sprite bit meets a lit one. -/
theorem drawXorsTheSprite : Obligations.DrawXorsTheSprite := fun x y n s h => by
  refine ⟨_, exec_draw_of_inside h x y, s.pix_drawSprite x y n, ?_, ?_, ?_, Frame.holds_drawSprite s x y n⟩
  · rintro ⟨c, d, hon, hoff⟩
    refine s.drawSprite_vf_of_collision x y n ⟨c, d, ?_, hon⟩
    rw [State.pix_drawSprite, hon] at hoff
    simpa using hoff
  · intro hkeep
    refine s.drawSprite_vf_of_no_collision x y n fun c d hbit => Bool.eq_false_iff.2 fun hon => ?_
    have hstill := hkeep c d hon
    rw [State.pix_drawSprite, hon, hbit] at hstill
    cases hstill
  · rw [State.drawSprite_eq]
    rfl

/-- Settles O54: the second draw has the first one's sprite and origin, so its bits are inverted twice; where the first
draw found them off, the second finds them lit. -/
theorem drawTwiceRestoresTheScreen : Obligations.DrawTwiceRestoresTheScreen := fun x y n s t u h ht hu hx hy => by
  obtain rfl : s.drawSprite x y n = t := by simpa [exec_draw_of_inside h x y] using ht
  have h' : n = 0 ∨ (s.drawSprite x y n).i.toNat + n.toNat - 1 ≤ 0xFFF := by rwa [State.drawSprite_eq]
  obtain rfl : (s.drawSprite x y n).drawSprite x y n = u := by simpa [exec_draw_of_inside h' x y] using hu
  have hbit : (s.drawSprite x y n).spriteBit ((s.drawSprite x y n).originX x) ((s.drawSprite x y n).originY y) n.toNat =
      s.spriteBit (s.originX x) (s.originY y) n.toNat := by rw [hx, hy, State.spriteBit_drawSprite]
  refine ⟨fun c d => ?_, fun ⟨c, d, hset⟩ hoff => ⟨s.drawSprite_vf_of_no_collision x y n hoff, ?_⟩⟩
  · rw [State.pix_drawSprite, hbit, State.pix_drawSprite, Bool.xor_assoc, Bool.xor_self, Bool.xor_false]
  · refine State.drawSprite_vf_of_collision _ x y n ⟨c, d, by rw [hbit, hset], ?_⟩
    rw [State.pix_drawSprite, hset, hoff c d hset]
    rfl

end Sys2Proof
end

