-- ==== Sys2Proof/Proofs/TimersKeysRandom.lean ====
section
/-! PROOF. Random, timer transfers and the entry of the key wait (45_timers_keys_random.md R240, R243 to R245, R247):
the statements O55 to O58. -/

namespace Sys2Proof.Machine

theorem exec_randomAnd (x : RegIx) (nn : Byte) (s : State) :
    exec (.randomAnd x nn) s = .next (s.advance.setV x (s.rand &&& nn)) := rfl

theorem exec_getDelayTimer (x : RegIx) (s : State) :
    exec (.getDelayTimer x) s = .next (s.advance.setV x s.dt) := rfl

theorem exec_setDelayTimer (x : RegIx) (s : State) :
    exec (.setDelayTimer x) s = .next (s.advance.setDt (s.getV x)) := rfl

theorem exec_setSoundTimer (x : RegIx) (s : State) :
    exec (.setSoundTimer x) s = .next (s.advance.setSt (s.getV x)) := rfl

theorem exec_getKey (x : RegIx) (s : State) :
    exec (.getKey x) s = .next (s.advance.setStatus (.awaitingKey x)) := rfl

/-- Entering the key wait changes the status only. -/
theorem Frame.holds_advance_setStatus (s : State) (u : Status) :
    Frame.Holds { status := true } s (s.advance.setStatus u) :=
  (Frame.holds_setStatus rfl s.advance u).of_advance

end Sys2Proof.Machine

namespace Sys2Proof

open Sys2Proof.Machine

/-- Settles O55: the byte written is the conjunction, bit by bit. -/
theorem randomAndMasks : Obligations.RandomAndMasks := fun x nn s =>
  ⟨decode_encode (.randomAnd x nn), _, exec_randomAnd x nn s,
    fun b => by rw [State.getV_setV_same, BitVec.getLsbD_and], rfl, Frame.holds_advance_setV s x _⟩

/-- Settles O56: the byte written is DT. -/
theorem delayTimerRead : Obligations.DelayTimerRead := fun x s =>
  ⟨decode_encode (.getDelayTimer x), _, exec_getDelayTimer x s, State.getV_setV_same _ x _, rfl,
    Frame.holds_advance_setV s x _⟩

/-- Settles O57: each instruction writes its own timer. -/
theorem timersWritten : Obligations.TimersWritten := fun x s =>
  ⟨⟨decode_encode (.setDelayTimer x), _, exec_setDelayTimer x s, State.setDt_dt _ _, rfl,
      (Frame.holds_setDt s.advance _).of_advance⟩,
    decode_encode (.setSoundTimer x), _, exec_setSoundTimer x s, State.setSt_st _ _, rfl,
      (Frame.holds_setSt s.advance _).of_advance⟩

/-- Settles O58: the instruction writes the status and reads no key. -/
theorem getKeyEntersTheWait : Obligations.GetKeyEntersTheWait := fun x s =>
  ⟨decode_encode (.getKey x), _, exec_getKey x s, State.setStatus_status _ _, rfl,
    Frame.holds_advance_setStatus s _⟩

end Sys2Proof
end

