-- ==== Sys2Proof/Proofs/Outcomes.lean ====
section
/-! PROOF. What an instruction can answer, said once for all 34: it completes, or it raises a precise fault; and from it
the statements O20 to O24. -/

namespace Sys2Proof.Machine

/-- The status an instruction that completes leaves: only FX0A writes it (45_timers_keys_random.md R245). -/
def statusAfter (i : Instr) (u : Status) : Status :=
  match i with
  | .getKey x => .awaitingKey x
  | _ => u

/-- The instruction's rule has run to its end, from `s` to `t`. -/
structure Completes (i : Instr) (s t : State) : Prop where
  frame : (i.frame s).Holds s t
  status : t.status = statusAfter i s.status
  pc : i.transfersControl = false → t.pc = s.pc + 2
  mem_wf : s.mem.wf → t.mem.wf

/-- The instruction raises the fault `f` from `s` (60_exceptions.md R260, R262): the record names its address, its
word and a cause, and its rule is one that can fault. -/
structure Faults (i : Instr) (s : State) (f : FaultInfo) : Prop where
  pc : f.pc = s.pc
  word : f.word = some (encode i)
  hasCause : f.hasCause
  status_open : (i.frame s).status = true
  not_getKey : ∀ x, i ≠ .getKey x

/-- The two things an instruction can answer. -/
def Answers (i : Instr) (s : State) : Prop :=
  (∃ t, exec i s = .next t ∧ Completes i s t) ∨
  ∃ f, exec i s = .next (s.setStatus (.faulted f)) ∧ Faults i s f

theorem Answers.complete {i : Instr} {s t : State} (h : exec i s = .next t) (hc : Completes i s t) : Answers i s :=
  .inl ⟨t, h, hc⟩

theorem Answers.fault {i : Instr} {s : State} {f : FaultInfo} (h : exec i s = .next (s.setStatus (.faulted f)))
    (hf : Faults i s f) : Answers i s :=
  .inr ⟨f, h, hf⟩

theorem answers_ret (s : State) : Answers .ret s := by
  by_cases h : s.sp.val = 0
  · exact .fault (exec_ret_of_empty s h) ⟨rfl, rfl, rfl, rfl, nofun⟩
  · have hpop := State.pop_of_pos s.advance (Nat.pos_of_ne_zero h)
    exact .complete (exec_ret_of_pop hpop) ⟨(Frame.holds_pop hpop).of_advance.openStatus, rfl, nofun, id⟩

theorem answers_call (nnn : Addr12) (s : State) : Answers (.call nnn) s := by
  by_cases h : s.sp.val < 16
  · have hpush := State.push_of_lt s.advance (s.pc + 2#16) h
    exact .complete (exec_call_of_push nnn hpush) ⟨(Frame.holds_push hpush).of_advance.openStatus, rfl, nofun, id⟩
  · have hsp := s.sp.isLt
    exact .fault (exec_call_of_full nnn s (by omega)) ⟨rfl, rfl, ⟨nnn, rfl⟩, rfl, nofun⟩

/-- A skip completes whichever way its condition falls. -/
theorem completes_skipIf {i : Instr} {s : State} {c : Bool} (hi : i.transfersControl = true)
    (hstatus : statusAfter i s.status = s.status) : Completes i s (s.advance.skipIf c) where
  frame := Frame.holds_advance_skipIf _ s c
  status := by rw [hstatus]; cases c <;> rfl
  pc := by rw [hi]; nofun
  mem_wf := by cases c <;> exact id

/-- A key test skips or raises its fault; the two differ in the level they ask for. -/
theorem answers_keyTest {i : Instr} {s : State} {x : RegIx} (pressed : Bool)
    (hexec : exec i s = keyTest (encode i) x pressed s) (hopen : (i.frame s).status = true)
    (hi : i.transfersControl = true) (hstatus : statusAfter i s.status = s.status) (hkey : ∀ x, i ≠ .getKey x) :
    Answers i s := by
  by_cases h : (s.getV x).toNat ≤ 0x0F
  · have hk : (s.getV x).toNat = (BitVec.ofNat 4 (s.getV x).toNat).toNat :=
      ((BitVec.toNat_ofNat _ 4).trans (Nat.mod_eq_of_lt (by omega))).symm
    exact .complete (hexec.trans (keyTest_of_eq _ pressed hk)) (completes_skipIf hi hstatus)
  · have hgt : 0x0F < (s.getV x).toNat := Nat.not_le.1 h
    exact .fault (hexec.trans (keyTest_of_gt _ pressed hgt)) ⟨rfl, rfl, hgt, hopen, hkey⟩

/-- The address a bounds check names is outside memory. -/
theorem hasCause_memoryAccessViolation (pc : Word) (w : Option Word) (base : Nat) :
    (FaultInfo.memoryAccessViolation pc w (if 0xFFF < base then base else 0x1000)).hasCause := by
  rw [FaultInfo.hasCause]
  split
  · assumption
  · decide

/-- A block instruction completes where its block exists and raises a fault where it does not. -/
theorem answers_checkedBlock {i : Instr} {s done : State} {n : Nat}
    (hexec : exec i s = checkedBlock s (encode i) n done)
    (hdone : n = 0 ∨ s.i.toNat + n ≤ 4096 → Completes i s done) (hstatus : (i.frame s).status = true)
    (hkey : ∀ x, i ≠ .getKey x) : Answers i s := by
  by_cases h : n = 0 ∨ s.i.toNat + n ≤ 4096
  · exact .complete (hexec.trans (checkedBlock_of_inside h _ _)) (hdone h)
  · exact .fault (hexec.trans (checkedBlock_of_outside (by omega) (by omega) _ _))
      ⟨rfl, rfl, hasCause_memoryAccessViolation _ _ _, hstatus, hkey⟩

/-- Every instruction, from every state, completes or raises a precise fault. -/
theorem answers (i : Instr) (s : State) : Answers i s := by
  cases i with
  | clearScreen =>
    exact .complete (exec_clearScreen s) ⟨(Frame.holds_clearDisplay s.advance).of_advance, rfl, fun _ => rfl, id⟩
  | ret => exact answers_ret s
  | jump nnn => exact .complete (exec_jump nnn s) ⟨Frame.holds_advance_setPc _ s _, rfl, nofun, id⟩
  | call nnn => exact answers_call nnn s
  | skipIfEqual x nn => exact .complete (exec_skipIfEqual x nn s) (completes_skipIf rfl rfl)
  | skipIfNotEqual x nn => exact .complete (exec_skipIfNotEqual x nn s) (completes_skipIf rfl rfl)
  | skipIfRegistersEqual x y => exact .complete (exec_skipIfRegistersEqual x y s) (completes_skipIf rfl rfl)
  | skipIfRegistersNotEqual x y => exact .complete (exec_skipIfRegistersNotEqual x y s) (completes_skipIf rfl rfl)
  | skipIfKey x => exact answers_keyTest (x := x) true rfl rfl rfl rfl nofun
  | skipIfNotKey x => exact answers_keyTest (x := x) false rfl rfl rfl rfl nofun
  | jumpWithOffset nnn =>
    exact .complete (exec_jumpWithOffset nnn s) ⟨Frame.holds_advance_setPc _ s _, rfl, nofun, id⟩
  | setRegister x nn | addImmediate x nn | randomAnd x nn =>
    exact .complete rfl ⟨Frame.holds_advance_setV s x _, rfl, fun _ => rfl, id⟩
  | copyRegister x y | or x y | and x y | xor x y | subtract x y | reverseSubtract x y =>
    exact .complete rfl ⟨Frame.holds_advance_setV s x _, rfl, fun _ => rfl, id⟩
  | addRegisters x y | shiftRight x y | shiftLeft x y =>
    exact .complete rfl ⟨Frame.holds_advance_setResultFlag s x _ _, rfl, fun _ => rfl, id⟩
  | getDelayTimer x => exact .complete rfl ⟨Frame.holds_advance_setV s x _, rfl, fun _ => rfl, id⟩
  | setIndex nnn => exact .complete rfl ⟨Frame.holds_advance_setI s _, rfl, fun _ => rfl, id⟩
  | addToIndex x | fontCharacter x => exact .complete rfl ⟨Frame.holds_advance_setI s _, rfl, fun _ => rfl, id⟩
  | getKey x => exact .complete (exec_getKey x s) ⟨Frame.holds_advance_setStatus s _, rfl, fun _ => rfl, id⟩
  | setDelayTimer x => exact .complete rfl ⟨(Frame.holds_setDt s.advance _).of_advance, rfl, fun _ => rfl, id⟩
  | setSoundTimer x => exact .complete rfl ⟨(Frame.holds_setSt s.advance _).of_advance, rfl, fun _ => rfl, id⟩
  | draw x y n =>
    refine answers_checkedBlock (exec_draw x y n s)
      (fun _ => ⟨(Frame.holds_drawSprite s x y n).openStatus, ?_, ?_, ?_⟩) rfl nofun
    all_goals rw [State.drawSprite_eq]
    · rfl
    · exact fun _ => rfl
    · exact id
  | binaryDecimalConversion x =>
    refine answers_checkedBlock (exec_binaryDecimalConversion x s)
      (fun h => ⟨(Frame.holds_storeDigits s x).openStatus, rfl, fun _ => rfl, fun hs => ?_⟩) rfl nofun
    exact Memory.wf_writeList (decimalDigits (s.getV x)) s.mem hs s.i.toNat (h.resolve_left (by decide))
  | storeMemory x =>
    refine answers_checkedBlock (exec_storeMemory x s) (fun h => ⟨?_, ?_, fun _ => ?_, fun hs => ?_⟩) rfl nofun
    · exact (Frame.holds_storeRegs (blockLength x) s.advance).of_advance.openStatus
    · exact State.storeRegs_status _ _
    · exact State.storeRegs_pc _ _
    · exact State.wf_storeRegs (blockLength x) s.advance hs (h.resolve_left (Nat.succ_ne_zero x.toNat))
  | loadMemory x =>
    refine answers_checkedBlock (exec_loadMemory x s) (fun _ => ⟨?_, ?_, fun _ => ?_, fun hs => ?_⟩) rfl nofun
    · exact (Frame.holds_loadRegs x s.advance).of_advance.openStatus
    · exact State.loadRegs_status _ _
    · exact State.loadRegs_pc _ _
    · rwa [State.loadRegs_mem]

/-- The inversion of an instruction's next state. -/
theorem exec_eq_next {i : Instr} {s t : State} (h : exec i s = .next t) :
    Completes i s t ∨ ∃ f, t = s.setStatus (.faulted f) ∧ Faults i s f := by
  obtain ⟨t', ht', hc⟩ | ⟨f, hf, hfaults⟩ := answers i s
  · obtain rfl : t' = t := by simpa [ht'] using h
    exact .inl hc
  · exact .inr ⟨f, by simpa [hf] using h.symm, hfaults⟩

/-- An instruction that completes from a running state leaves no fault. -/
theorem statusAfter_running_ne_faulted (i : Instr) (f : FaultInfo) : statusAfter i .running ≠ .faulted f := by
  cases i <;> nofun

/-- The faulted next state of a running one comes from a fault of the instruction. -/
theorem exec_faulted {i : Instr} {s t : State} {f : FaultInfo} (hs : s.status = .running) (h : exec i s = .next t)
    (ht : t.status = .faulted f) : t = s.setStatus (.faulted f) ∧ Faults i s f := by
  obtain hc | ⟨g, rfl, hg⟩ := exec_eq_next h
  · rw [hc.status, hs] at ht
    exact absurd ht (statusAfter_running_ne_faulted i f)
  · obtain rfl : g = f := by simpa using ht
    exact ⟨rfl, hg⟩

end Sys2Proof.Machine

namespace Sys2Proof

open Sys2Proof.Machine

/-- Settles O20: a fault of a running state is the instruction's own. -/
theorem faultsArePrecise : Obligations.FaultsArePrecise := fun _ _ _ _ hs h ht => by
  obtain ⟨he, hf⟩ := exec_faulted hs h ht
  exact ⟨he, hf.pc, hf.word⟩

/-- Settles O21: an instruction that faults has the status open in its frame, and of those only FX0A cannot fault. -/
theorem onlyNamedInstructionsFault : Obligations.OnlyNamedInstructionsFault := fun i s t hs h hsafe => by
  obtain ⟨f, hf⟩ : ∃ f, t.status = .faulted f := by simpa [State.Safe] using hsafe
  obtain ⟨-, hfaults⟩ := exec_faulted hs h hf
  cases i with
  | ret | call | draw | skipIfKey | skipIfNotKey | binaryDecimalConversion | storeMemory | loadMemory => simp
  | getKey x => exact absurd rfl (hfaults.not_getKey x)
  | _ => cases hfaults.status_open

/-- Settles O22: an instruction that completes leaves a running state running unless it is FX0A; a fault is no wait. -/
theorem onlyGetKeyWaits : Obligations.OnlyGetKeyWaits := fun i s t r hs h ht => by
  obtain hc | ⟨f, rfl, -⟩ := exec_eq_next h
  · rw [hc.status, hs] at ht
    cases i with
    | getKey x => cases ht; rfl
    | _ => cases ht
  · cases ht

/-- Settles O23: an instruction that completes keeps its frame, and a fault changes a status that is open in it. -/
theorem everyInstructionKeepsItsFrame : Obligations.EveryInstructionKeepsItsFrame := fun i s t h => by
  obtain hc | ⟨f, rfl, hf⟩ := exec_eq_next h
  · exact hc.frame
  · exact Frame.holds_setStatus hf.status_open s _

/-- Settles O24: A + 2 where the instruction completes, A where the fault has undone the increment. -/
theorem sequentialInstructionsAdvancePc : Obligations.SequentialInstructionsAdvancePc := fun i s t hs hi h => by
  obtain hc | ⟨f, rfl, -⟩ := exec_eq_next h
  · have hruns : t.status = .running ∨ ∃ r, t.status = .awaitingKey r := by
      rw [hc.status, hs]
      cases i with
      | getKey x => exact .inr ⟨x, rfl⟩
      | _ => exact .inl rfl
    rw [if_pos hruns, hc.pc hi, BitVec.toNat_add]
    rfl
  · rw [if_neg (by simp)]
    rfl

end Sys2Proof
end

