-- ==== Sys2Proof/Proofs/Inputs.lean ====
section
/-! PROOF. Which instructions the driver's inputs reach (10_state.md R41, R42): every operation but the key tests' and
the random byte's read commutes with a change of the ports, and from it the statement O25. -/

namespace Sys2Proof.Machine

/-- The state with another key snapshot and another random byte on the driver's ports. -/
def State.withPorts (s : State) (keys : Vector Bool 16) (rand : Byte) : State := { s with keys := keys, rand := rand }

/-- A function applied to the next state, if there is one. -/
def mapNext (g : State → State) : Host.Outcome State Fault Refusal → Host.Outcome State Fault Refusal
  | .next t => .next (g t)
  | o => o

section

variable (keys : Vector Bool 16) (rand : Byte)

/-! ### The operations -/

theorem State.skipIf_withPorts (s : State) (c : Bool) :
    (s.withPorts keys rand).skipIf c = (s.skipIf c).withPorts keys rand := by
  cases c <;> rfl

theorem State.storeRegs_withPorts (n : Nat) (s : State) :
    State.storeRegs n (s.withPorts keys rand) = (State.storeRegs n s).withPorts keys rand := by
  induction n with
  | zero => rfl
  | succ n ih => rw [State.storeRegs, ih]; rfl

theorem State.loadRegs_withPorts (n : Nat) (s : State) :
    State.loadRegs n (s.withPorts keys rand) = (State.loadRegs n s).withPorts keys rand := by
  induction n with
  | zero => rfl
  | succ n ih => rw [State.loadRegs, ih]; rfl

theorem State.setPix_withPorts (s : State) (x y : Nat) (b : Bool) :
    (s.withPorts keys rand).setPix x y b = (s.setPix x y b).withPorts keys rand := by
  unfold State.setPix
  split <;> rfl

theorem State.drawPixel_withPorts (x y : Nat) (s : State) :
    (s.withPorts keys rand).drawPixel x y = (s.drawPixel x y).withPorts keys rand := by
  have hpix : (s.withPorts keys rand).pix x y = s.pix x y := rfl
  rw [State.drawPixel, State.drawPixel, hpix, ← State.setPix_withPorts]
  split <;> rfl

theorem drawColumns_withPorts (b : Byte) (x0 y n : Nat) (s : State) :
    drawColumns b x0 y n (s.withPorts keys rand) = (drawColumns b x0 y n s).withPorts keys rand := by
  induction n with
  | zero => rfl
  | succ n ih =>
    rw [drawColumns, drawColumns, ih]
    split
    · rfl
    · split
      · exact State.drawPixel_withPorts keys rand _ _ _
      · rfl

theorem drawRows_withPorts (x0 y0 n : Nat) (s : State) :
    drawRows x0 y0 n (s.withPorts keys rand) = (drawRows x0 y0 n s).withPorts keys rand := by
  induction n with
  | zero => rfl
  | succ n ih =>
    rw [drawRows, drawRows, ih]
    split
    · rfl
    · exact drawColumns_withPorts keys rand _ _ _ _ _

/-- A block instruction whose effect commutes with the ports commutes with them. -/
theorem checkedBlock_withPorts {s done done' : State} (hdone : done' = done.withPorts keys rand) (w : Word) (n : Nat) :
    checkedBlock (s.withPorts keys rand) w n done' = mapNext (·.withPorts keys rand) (checkedBlock s w n done) := by
  rw [hdone, checkedBlock_eq, checkedBlock_eq, apply_ite (mapNext _)]
  rfl

/-! ### The instructions -/

theorem exec_ret_withPorts (s : State) :
    exec .ret (s.withPorts keys rand) = mapNext (·.withPorts keys rand) (exec .ret s) := by
  by_cases h : s.sp.val = 0
  · rw [exec_ret_of_empty s h, exec_ret_of_empty (s.withPorts keys rand) h]
    rfl
  · have hpos := Nat.pos_of_ne_zero h
    rw [exec_ret_of_pop (State.pop_of_pos s.advance hpos),
      exec_ret_of_pop (State.pop_of_pos (s.withPorts keys rand).advance hpos)]
    rfl

theorem exec_call_withPorts (nnn : Addr12) (s : State) :
    exec (.call nnn) (s.withPorts keys rand) = mapNext (·.withPorts keys rand) (exec (.call nnn) s) := by
  by_cases h : s.sp.val < 16
  · rw [exec_call_of_push nnn (State.push_of_lt s.advance _ h),
      exec_call_of_push nnn (State.push_of_lt (s.withPorts keys rand).advance _ h)]
    rfl
  · have hsp : s.sp.val = 16 := by have := s.sp.isLt; omega
    rw [exec_call_of_full nnn s hsp, exec_call_of_full nnn (s.withPorts keys rand) hsp]
    rfl

/-- A skip whose condition reads no port. -/
theorem next_skipIf_withPorts (s : State) (c : Bool) :
    (.next ((s.withPorts keys rand).advance.skipIf c) : Host.Outcome State Fault Refusal) =
      mapNext (·.withPorts keys rand) (.next (s.advance.skipIf c)) :=
  congrArg _ (State.skipIf_withPorts keys rand s.advance c)

/-- A key test answers the same on the same snapshot. -/
theorem keyTest_withPorts (w : Word) (x : RegIx) (pressed : Bool) (s : State) :
    keyTest w x pressed (s.withPorts s.keys rand) = mapNext (·.withPorts s.keys rand) (keyTest w x pressed s) := by
  have hop : (s.withPorts s.keys rand).keyOperand x = s.keyOperand x := rfl
  rw [keyTest, keyTest, hop]
  cases s.keyOperand x with
  | none => rfl
  | some k => exact next_skipIf_withPorts s.keys rand s (s.key k == pressed)

/-- An instruction answers the same whatever is on a port it does not read. -/
theorem exec_withPorts (i : Instr) (s : State)
    (hkeys : ((∀ x, i ≠ .skipIfKey x) ∧ ∀ x, i ≠ .skipIfNotKey x) ∨ keys = s.keys)
    (hrand : (∀ x nn, i ≠ .randomAnd x nn) ∨ rand = s.rand) :
    exec i (s.withPorts keys rand) = mapNext (·.withPorts keys rand) (exec i s) := by
  cases i with
  | ret => exact exec_ret_withPorts keys rand s
  | call nnn => exact exec_call_withPorts keys rand nnn s
  | skipIfEqual | skipIfNotEqual | skipIfRegistersEqual | skipIfRegistersNotEqual =>
    exact next_skipIf_withPorts keys rand s _
  | skipIfKey x =>
    obtain rfl := hkeys.resolve_left fun h => h.1 x rfl
    exact keyTest_withPorts rand _ x true s
  | skipIfNotKey x =>
    obtain rfl := hkeys.resolve_left fun h => h.2 x rfl
    exact keyTest_withPorts rand _ x false s
  | randomAnd x nn =>
    obtain rfl := hrand.resolve_left fun h => h x nn rfl
    rfl
  | draw x y n =>
    exact checkedBlock_withPorts keys rand
      (drawRows_withPorts keys rand (s.originX x) (s.originY y) n.toNat (s.advance.setVF 0x00#8)) _ _
  | binaryDecimalConversion x => exact checkedBlock_withPorts keys rand (done := s.storeDigits x) rfl _ _
  | storeMemory x =>
    exact checkedBlock_withPorts keys rand (State.storeRegs_withPorts keys rand (blockLength x) s.advance) _ _
  | loadMemory x =>
    exact checkedBlock_withPorts keys rand (State.loadRegs_withPorts keys rand (blockLength x) s.advance) _ _
  | _ => rfl

end

/-- No instruction writes a port. -/
theorem exec_ports {i : Instr} {s t : State} (h : exec i s = .next t) : t.keys = s.keys ∧ t.rand = s.rand := by
  obtain ⟨-, -, -, -, -, -, -, -, hports⟩ := everyInstructionKeepsItsFrame i s t h
  obtain ⟨hk, hr, -⟩ := hports (by cases i <;> rfl)
  exact ⟨hk, hr⟩

end Sys2Proof.Machine

namespace Sys2Proof

open Sys2Proof.Machine

/-- Settles O25: of the two ports one is changed and the other kept, in the state before and so in the state after. -/
theorem inputsReachOnlyTheirInstructions : Obligations.InputsReachOnlyTheirInstructions := fun i s t keys rand h => by
  obtain ⟨hk, hr⟩ := exec_ports h
  refine ⟨fun h1 h2 => ?_, fun h3 => ?_⟩
  · refine (exec_withPorts keys s.rand i s (.inl ⟨h1, h2⟩) (.inr rfl)).trans ?_
    rw [h, mapNext, State.withPorts, ← hr]
  · refine (exec_withPorts s.keys rand i s (.inr rfl) (.inl h3)).trans ?_
    rw [h, mapNext, State.withPorts, ← hk]

end Sys2Proof
end

