-- ==== Sys2Proof/Proofs/Step.lean ====
section
/-! PROOF. The step (40_fetch_and_step.md R130 to R136; 45_timers_keys_random.md R246, R251): the ticks and the inputs
around it, its three cases, and the statements O6, O8 to O14 and O16. -/

namespace Sys2Proof.Machine

/-! ### The ticks before a step and the inputs after it -/

theorem State.tickMany_dt_toNat (n : Nat) (s : State) : (State.tickMany n s).dt.toNat = s.dt.toNat - n := by
  induction n with
  | zero => rfl
  | succ n ih => rw [State.tickMany, State.tick_dt, decrement_toNat, ih, Nat.sub_sub]

theorem State.tickMany_st_toNat (n : Nat) (s : State) : (State.tickMany n s).st.toNat = s.st.toNat - n := by
  induction n with
  | zero => rfl
  | succ n ih => rw [State.tickMany, State.tick_st, decrement_toNat, ih, Nat.sub_sub]

theorem State.takeTicks_dt_toNat (s : State) : s.takeTicks.dt.toNat = s.dt.toNat - s.ticks :=
  State.tickMany_dt_toNat s.ticks s

theorem State.takeTicks_st_toNat (s : State) : s.takeTicks.st.toNat = s.st.toNat - s.ticks :=
  State.tickMany_st_toNat s.ticks s

@[simp] theorem State.memRead_takeTicks (s : State) (a : Nat) : s.takeTicks.memRead a = s.memRead a := by
  rw [State.memRead, State.takeTicks_mem, State.memRead]

@[simp] theorem State.key_takeTicks (s : State) (k : RegIx) : s.takeTicks.key k = s.key k := by
  rw [State.takeTicks_eq, State.key, State.key]

/-- What a step adds around its case: the ticks and the ports, which the frame leaves open. -/
theorem Frame.Holds.of_step {f : Frame} (hdelay : f.delay = true) (hsound : f.sound = true) (hports : f.ports = true)
    {s t : State} (h : f.Holds s.takeTicks t) : f.Holds s t.drawInputs := by
  have hbefore : f.Holds s s.takeTicks := by
    rw [State.takeTicks_eq]
    simp [Frame.Holds, hdelay, hsound, hports, State.getV, State.memRead, State.pix]
  have hafter : f.Holds t t.drawInputs := by
    simp [Frame.Holds, hports]
  exact (hbefore.trans h).trans hafter

/-! ### The three cases of a step -/

theorem step_of_coreStep {s t : State} (h : coreStep s.takeTicks = .next t) : step s = .next t.drawInputs := by
  rw [step, h, endStep]

theorem coreStep_of_faulted {s : State} {f : FaultInfo} (h : s.status = .faulted f) : coreStep s = .next s := by
  rw [coreStep, h]

theorem coreStep_of_awaitingKey {s : State} {r : RegIx} (h : s.status = .awaitingKey r) :
    coreStep s = .next (s.keyWaitPoll r) := by
  rw [coreStep, h]

theorem coreStep_of_instr {s : State} {i : Instr} (h : s.status = .running) (hi : s.fetchInstr = .ok i) :
    coreStep s = exec i s := by
  rw [coreStep, h]
  simp only [fetchExecute, hi]

theorem coreStep_of_fetchFault {s : State} {f : FaultInfo} (h : s.status = .running) (hf : s.fetchInstr = .error f) :
    coreStep s = .next (s.setStatus (.faulted f)) := by
  rw [coreStep, h]
  simp only [fetchExecute, hf, raise]

/-! ### Fetch and decode -/

theorem State.fetchInstr_of_ok {s : State} {i : Instr} (hpc : s.pc.toNat + 1 ≤ 0xFFF)
    (hi : decode (s.memRead s.pc.toNat ++ s.memRead (s.pc.toNat + 1)) = .ok i) : s.fetchInstr = .ok i := by
  rw [State.fetchInstr, State.fetch_eq, if_pos hpc]
  simp only [hi]

theorem State.fetchInstr_of_unrecognized {s : State} {w : Word} (hpc : s.pc.toNat + 1 ≤ 0xFFF)
    (hw : w = s.memRead s.pc.toNat ++ s.memRead (s.pc.toNat + 1)) (he : decode w = .error (.unrecognized w)) :
    s.fetchInstr = .error (.invalidOpcode s.pc w) := by
  rw [State.fetchInstr, State.fetch_eq, if_pos hpc, ← hw]
  simp only [he, decodeFault]

theorem State.fetchInstr_of_outside {s : State} (hpc : 0xFFF < s.pc.toNat + 1) :
    s.fetchInstr = .error (.memoryAccessViolation s.pc none (if 0xFFF < s.pc.toNat then s.pc.toNat else 0x1000)) := by
  rw [State.fetchInstr, State.fetch_eq, if_neg hpc.not_ge]

/-- In status `Running` a step on bytes that decode runs their instruction. -/
theorem step_of_decode {s : State} {i : Instr} (hs : s.status = .running) (hpc : s.pc.toNat + 1 ≤ 0xFFF)
    (hi : decode (s.memRead s.pc.toNat ++ s.memRead (s.pc.toNat + 1)) = .ok i) :
    step s = endStep (exec i s.takeTicks) := by
  have hfetch : s.takeTicks.fetchInstr = .ok i :=
    State.fetchInstr_of_ok (by simpa using hpc) (by simpa using hi)
  rw [step, coreStep_of_instr (by simpa using hs) hfetch]

/-- In status `Running` a fault of the fetch or the decode changes the status only. -/
theorem step_of_fetchFault {s : State} {f : FaultInfo} (hs : s.status = .running)
    (hf : s.takeTicks.fetchInstr = .error f) : step s = .next (s.takeTicks.setStatus (.faulted f)).drawInputs :=
  step_of_coreStep (coreStep_of_fetchFault (by simpa using hs) hf)

/-! ### The least pressed key -/

theorem State.lowestKey_eq_some {s : State} {k : RegIx} (hk : s.key k = true)
    (hmin : ∀ j : RegIx, j < k → s.key j = false) : s.lowestKey = some k := by
  rw [State.lowestKey, List.find?_map, Option.map_eq_some_iff]
  refine ⟨k.toNat, List.find?_range_eq_some.2 ⟨by simpa using hk, List.mem_range.2 k.isLt, fun j hj => ?_⟩, by simp⟩
  have hj16 : (BitVec.ofNat 4 j).toNat = j := (BitVec.toNat_ofNat j 4).trans (Nat.mod_eq_of_lt (hj.trans k.isLt))
  have hoff := hmin (BitVec.ofNat 4 j) (BitVec.lt_def.2 (by rwa [hj16]))
  simpa using hoff

theorem State.lowestKey_eq_none {s : State} (h : ∀ k : RegIx, s.key k = false) : s.lowestKey = none := by
  simp [State.lowestKey, h]

theorem State.keyWaitPoll_of_some {s : State} {k : RegIx} (r : RegIx) (h : s.lowestKey = some k) :
    s.keyWaitPoll r = (s.setV r (k.setWidth 8)).setStatus .running := by
  rw [State.keyWaitPoll, h]

theorem State.keyWaitPoll_of_none {s : State} (r : RegIx) (h : s.lowestKey = none) : s.keyWaitPoll r = s := by
  rw [State.keyWaitPoll, h]

/-! ### A word placed for the next fetch (log entry 10) -/

@[simp] theorem State.readyToFetch_status (s : State) : s.readyToFetch.status = .running := by
  unfold State.readyToFetch
  split <;> rfl

@[simp] theorem State.readyToFetch_mem (s : State) : s.readyToFetch.mem = s.mem := by
  unfold State.readyToFetch
  split <;> rfl

/-- Both bytes at the readied PC exist. -/
theorem State.readyToFetch_pc_inside (s : State) : s.readyToFetch.pc.toNat + 1 ≤ 0xFFF := by
  unfold State.readyToFetch
  split
  case h_1 hnone =>
    have hin := (firstOutside_none _ _).1 hnone
    change s.pc.toNat + 1 ≤ 0xFFF
    omega
  case h_2 =>
    change 0x200 + 1 ≤ 0xFFF
    decide

/-- The two bytes of a placed word, in the order they are fetched. -/
theorem State.memRead_placeWord {s : State} (hs : s.mem.wf) (hpc : s.pc.toNat + 1 ≤ 0xFFF) (w : Word) :
    (s.placeWord w).memRead s.pc.toNat = w.extractLsb' 8 8 ∧
      (s.placeWord w).memRead (s.pc.toNat + 1) = w.extractLsb' 0 8 := by
  have hend : s.pc.toNat + (wordBytes w).length ≤ 4096 := by
    simp only [wordBytes, List.length]
    omega
  exact ⟨Memory.read_writeList (wordBytes w) s.mem hs s.pc.toNat 0 hend Nat.two_pos,
    Memory.read_writeList (wordBytes w) s.mem hs s.pc.toNat 1 hend Nat.one_lt_two⟩

end Sys2Proof.Machine

namespace Sys2Proof

open Sys2Proof.Machine

/-- A table's word is read from its two bytes. -/
theorem decode_of_decodeTableWord {nbits w : Nat} {i : Instr} (h : decodeTableWord nbits w = some i) :
    decode ((tableWord nbits w).extractLsb' 8 8 ++ (tableWord nbits w).extractLsb' 0 8) = .ok i := by
  rw [decodeTableWord, wordBytes, decodeBytes, bigEndian] at h
  cases hd : decode ((tableWord nbits w).extractLsb' 8 8 ++ (tableWord nbits w).extractLsb' 0 8) with
  | ok j => simpa [hd] using h
  | error e => simp [hd] at h

/-- Settles O6: the ticks change neither status, PC nor memory, so the fetch finds the instruction. -/
theorem stepRunsTheDecodedInstruction : Obligations.StepRunsTheDecodedInstruction := fun _ _ hs hpc hi =>
  ⟨step_of_decode hs hpc hi, fun _ => rfl⟩

/-- Settles O8: each of the pending ticks takes at most 1 from each timer. -/
theorem ticksBeforeTheStep : Obligations.TicksBeforeTheStep := fun s =>
  ⟨rfl, s.takeTicks_dt_toNat, s.takeTicks_st_toNat, s.takeTicks_ticks, s.takeTicks_eq⟩

/-- Settles O9: every case answers a next state, an instruction's included. -/
theorem everyStepAnswers : Obligations.EveryStepAnswers := fun s => by
  have hcore : ∃ t, coreStep s.takeTicks = .next t := by
    cases hs : s.takeTicks.status with
    | faulted f => exact ⟨_, coreStep_of_faulted hs⟩
    | awaitingKey r => exact ⟨_, coreStep_of_awaitingKey hs⟩
    | running =>
      cases hf : s.takeTicks.fetchInstr with
      | error f => exact ⟨_, coreStep_of_fetchFault hs hf⟩
      | ok i =>
        rw [coreStep_of_instr hs hf]
        obtain ⟨t, ht, -⟩ | ⟨f, ht, -⟩ := answers i s.takeTicks
        · exact ⟨t, ht⟩
        · exact ⟨_, ht⟩
  obtain ⟨t, ht⟩ := hcore
  exact ⟨_, step_of_coreStep ht⟩

/-- Settles O10: the core's step is no step, so only ticks and inputs are seen. -/
theorem faultedIsFinal : Obligations.FaultedIsFinal := fun s f hs => by
  have hs' : s.takeTicks.status = .faulted f := by simpa using hs
  exact ⟨_, step_of_coreStep (coreStep_of_faulted hs'), hs', s.takeTicks_pc, s.takeTicks_dt_toNat, s.takeTicks_st_toNat,
    (Frame.holds_refl _ _).of_step rfl rfl rfl⟩

/-- Settles O11: the poll finds the least pressed key and writes the register and the status. -/
theorem keyWaitTakesTheLowestKey : Obligations.KeyWaitTakesTheLowestKey := fun s r k hs hk hmin => by
  have hlow : s.takeTicks.lowestKey = some k := State.lowestKey_eq_some (by simpa using hk) (by simpa using hmin)
  have hstep := step_of_coreStep (coreStep_of_awaitingKey (s := s.takeTicks) (by simpa using hs))
  rw [State.keyWaitPoll_of_some r hlow] at hstep
  refine ⟨_, hstep, ?_, rfl, s.takeTicks_pc, s.takeTicks_dt_toNat, s.takeTicks_st_toNat,
    Frame.Holds.of_step rfl rfl rfl ?_⟩
  · simp only [State.getV_drawInputs, State.getV_setStatus, State.getV_setV_same]
    exact BitVec.toNat_setWidth_of_le (by decide)
  · simp +contextual [Frame.Holds, State.getV_setV]

/-- Settles O12: the poll finds no key and changes nothing. -/
theorem keyWaitWithoutKeyWaits : Obligations.KeyWaitWithoutKeyWaits := fun s r hs hoff => by
  have hs' : s.takeTicks.status = .awaitingKey r := by simpa using hs
  have hlow : s.takeTicks.lowestKey = none := State.lowestKey_eq_none (by simpa using hoff)
  have hstep := step_of_coreStep (coreStep_of_awaitingKey hs')
  rw [State.keyWaitPoll_of_none r hlow] at hstep
  exact ⟨_, hstep, hs', s.takeTicks_pc, s.takeTicks_dt_toNat, s.takeTicks_st_toNat,
    (Frame.holds_refl _ _).of_step rfl rfl rfl⟩

/-- Settles O13: the fetch's bounds check fails at PC, or at PC + 1 where that is the first address outside. -/
theorem fetchOutsideMemoryFaults : Obligations.FetchOutsideMemoryFaults := fun s hs hpc => by
  have hfetch := State.fetchInstr_of_outside (s := s.takeTicks) (by simpa using hpc)
  refine ⟨_, step_of_fetchFault hs hfetch, ?_, s.takeTicks_pc, s.takeTicks_dt_toNat, s.takeTicks_st_toNat,
    (Frame.holds_setStatus rfl _ _).of_step rfl rfl rfl⟩
  have haddr : (if 0xFFF < s.pc.toNat then s.pc.toNat else 0x1000) =
      if 0xFFF < s.pc.toNat then s.pc.toNat else s.pc.toNat + 1 := by
    split <;> omega
  rw [State.drawInputs_status, State.setStatus_status, State.takeTicks_pc, haddr]

/-- Settles O14: the decoder's rejection is the fault of the word fetched. -/
theorem unrecognizedWordFaults : Obligations.UnrecognizedWordFaults := fun s w hs hpc hw he => by
  have hfetch := State.fetchInstr_of_unrecognized (s := s.takeTicks) (by simpa using hpc) (by simpa using hw) he
  refine ⟨_, step_of_fetchFault hs hfetch, ?_, s.takeTicks_pc, s.takeTicks_dt_toNat, s.takeTicks_st_toNat,
    (Frame.holds_setStatus rfl _ _).of_step rfl rfl rfl⟩
  rw [State.drawInputs_status, State.setStatus_status, State.takeTicks_pc]

/-- Settles O16: the placed state runs, both bytes at its PC exist, and they are the word's. -/
theorem placedWordRunsNext : Obligations.PlacedWordRunsNext := fun s w i hs hi => by
  have hwf : s.readyToFetch.mem.wf := by rwa [State.readyToFetch_mem]
  obtain ⟨hhi, hlo⟩ := State.memRead_placeWord hwf s.readyToFetch_pc_inside (tableWord 16 w)
  refine step_of_decode s.readyToFetch_status s.readyToFetch_pc_inside ?_
  rw [State.withFetchWord, State.placeWord_pc, hhi, hlo]
  exact decode_of_decodeTableWord hi

end Sys2Proof
end

