-- ==== Sys2Proof/Proofs/Invariant.lean ====
section
/-! PROOF. The machine's invariant (20_memory.md R70; 60_exceptions.md R262, R264) and the state after machine
initialization (70_reset_and_hazards.md R290): the statements O17 to O19. -/

namespace Sys2Proof.Machine

/-- The invariant speaks of memory, status and PC only. -/
theorem State.Inv.congr {s t : State} (h : s.Inv) (hmem : t.mem = s.mem) (hstatus : t.status = s.status)
    (hpc : t.pc = s.pc) : t.Inv := by
  rwa [State.Inv, hmem, hstatus, hpc]

theorem State.Inv.mem_wf {s : State} (h : s.Inv) : s.mem.wf := h.1

/-- A state without a fault meets the invariant where its memory is in canonical form. -/
theorem State.inv_of_not_faulted {s : State} (hmem : s.mem.wf) (hs : ∀ f, s.status ≠ .faulted f) : s.Inv :=
  ⟨hmem, fun f hf => absurd hf (hs f)⟩

/-- Taking a fault with the right PC and cause keeps the invariant. -/
theorem State.inv_setStatus_faulted {s : State} {f : FaultInfo} (hmem : s.mem.wf) (hpc : f.pc = s.pc)
    (hcause : f.hasCause) : (s.setStatus (.faulted f)).Inv := by
  refine ⟨hmem, fun g hg => ?_⟩
  obtain rfl : f = g := by simpa using hg
  exact ⟨hpc, hcause⟩

theorem State.inv_takeTicks {s : State} (h : s.Inv) : s.takeTicks.Inv :=
  h.congr s.takeTicks_mem s.takeTicks_status s.takeTicks_pc

theorem State.inv_drawInputs {s : State} (h : s.Inv) : s.drawInputs.Inv := h.congr rfl rfl rfl

theorem State.inv_keyWaitPoll {s : State} (h : s.Inv) (r : RegIx) : (s.keyWaitPoll r).Inv := by
  obtain ⟨k, -, he⟩ | ⟨-, he⟩ := s.keyWaitPoll_cases r
  · rw [he]
    exact State.inv_of_not_faulted h.mem_wf nofun
  · rwa [he]

/-- A fault of the fetch or the decode names PC and has its cause. -/
theorem State.fetchInstr_error {s : State} {f : FaultInfo} (h : s.fetchInstr = .error f) :
    f.pc = s.pc ∧ f.hasCause := by
  by_cases hpc : s.pc.toNat + 1 ≤ 0xFFF
  · cases hd : decode (s.memRead s.pc.toNat ++ s.memRead (s.pc.toNat + 1)) with
    | ok i => cases (State.fetchInstr_of_ok hpc hd).symm.trans h
    | error e =>
      have he := decode_eq_error _ e hd
      rw [he] at hd
      cases (State.fetchInstr_of_unrecognized hpc rfl hd).symm.trans h
      exact ⟨rfl, hd⟩
  · cases (State.fetchInstr_of_outside (Nat.not_le.1 hpc)).symm.trans h
    exact ⟨rfl, hasCause_memoryAccessViolation _ _ _⟩

/-- An instruction of a running state keeps the invariant: completing it stores at existing addresses only, and its
fault names PC and has its cause. -/
theorem exec_keeps_inv {i : Instr} {s t : State} (hs : s.status = .running) (hinv : s.Inv) (h : exec i s = .next t) :
    t.Inv := by
  obtain hc | ⟨f, rfl, hf⟩ := exec_eq_next h
  · refine State.inv_of_not_faulted (hc.mem_wf hinv.mem_wf) fun f => ?_
    rw [hc.status, hs]
    exact statusAfter_running_ne_faulted i f
  · exact State.inv_setStatus_faulted hinv.mem_wf hf.pc hf.hasCause

end Sys2Proof.Machine

namespace Sys2Proof

open Sys2Proof.Machine

/-- Settles O17: each of the step's cases keeps the invariant, and so do the ticks before it and the inputs after it. -/
theorem stepKeepsInv : Obligations.StepKeepsInv := fun s t hinv h => by
  have hticks := State.inv_takeTicks hinv
  obtain ⟨u, rfl, hcase⟩ := step_eq_next s t h
  refine State.inv_drawInputs ?_
  obtain ⟨f, -, rfl⟩ | ⟨r, -, rfl⟩ | ⟨-, f, hf, rfl⟩ | ⟨hs, i, -, hi⟩ := hcase
  · exact hticks
  · exact State.inv_keyWaitPoll hticks r
  · obtain ⟨hpc, hcause⟩ := State.fetchInstr_error hf
    exact State.inv_setStatus_faulted hticks.mem_wf hpc hcause
  · exact exec_keeps_inv (by simpa using hs) hticks hi

/-- Settles O18: memory is empty and the status is `Running`. -/
theorem resetMeetsInv : Obligations.ResetMeetsInv := State.inv_of_not_faulted Memory.wf_nil nofun

/-- Settles O19: every entry of a vector of equal entries is that entry. -/
theorem resetState : Obligations.ResetState := by
  refine ⟨fun r => ?_, rfl, rfl, fun j hj => ?_, rfl, rfl, fun _ => rfl, fun x y => ?_, rfl, rfl⟩
  · exact Vector.getElem_replicate _
  · exact Vector.getElem_replicate _
  · simp [State.pix, State.reset]

end Sys2Proof
end
